-- ==== Sys2Proof/Word.lean ====
section
/-! DEFINITION. The words of the block (00_scope.md R8): bytes, command words, register indices and
sequencer select words. All are unsigned. -/

namespace Sys2Proof

/-- "A byte is an unsigned integer 0 to 255" (00_scope.md R8). -/
abbrev Byte := BitVec 8

/-- A command word or an output record as the ports carry it (30_encoding.md R60, R68). -/
abbrev Word := BitVec 16

/-- The 4-bit register index of WRC and RDR (10_state.md R24). -/
abbrev RegIndex := BitVec 4

/-- The 5-bit sequencer select word (30_encoding.md R66). -/
abbrev Select := BitVec 5

end Sys2Proof
end

