-- ==== Sys2Proof/Syntax.lean ====
section
/-! DEFINITION. The thirteen operations of the block, one constructor per row of
spec/opcode_table.json (30_encoding.md R61, R67), and the reasons a word names none. -/

namespace Sys2Proof

/-- An operation of the block: a host command with its operands (30_encoding.md R61), or a sequencer
operation, which has none (R67). -/
inductive Instr where
  /-- NOP, 44_config_and_status.md R110. -/
  | nop
  /-- PUSH b: one stream byte, 41_marker_scanner.md R84. -/
  | push (b : Byte)
  /-- END f: end of stream (`false`) or read failure (`true`), 41_marker_scanner.md R85. -/
  | endStream (f : Bool)
  /-- WRC r, v: write a configuration register, 44_config_and_status.md R111. -/
  | wrc (r : RegIndex) (v : Byte)
  /-- RDR r: read a register, 44_config_and_status.md R112. -/
  | rdr (r : RegIndex)
  /-- DUMPB: emit one accumulator bit, 42_accumulator_packer.md R90. -/
  | dumpb
  /-- DUMPX: leave the dump phase, 42_accumulator_packer.md R91. -/
  | dumpx
  /-- PACKB: pack one group of eight bits, 42_accumulator_packer.md R93. -/
  | packb
  /-- PACKX: leave the pack phase, 42_accumulator_packer.md R94. -/
  | packx
  /-- KEYH: emit the header of the current key, 43_xor_key_iterator.md R100. -/
  | keyh
  /-- XORB: emit one candidate byte, 43_xor_key_iterator.md R101. -/
  | xorb
  /-- KEYN: advance to the next key, 43_xor_key_iterator.md R102. -/
  | keyn
  /-- FIN: finish the run, 43_xor_key_iterator.md R103. -/
  | fin
deriving DecidableEq, Repr

/-- Why a command word names no operation (30_encoding.md R63, R64). -/
inductive BadWord where
  /-- Opcode 0x5 to 0xF; accepted, the word raises ILLOP (R64 step 1). -/
  | reservedOpcode
  /-- A must-be-zero field of the selected format is not zero; accepted, the word raises ILLFLD
  (R64 step 2). -/
  | mustBeZero
deriving DecidableEq, Repr

/-- Why the decoder gives no operation. -/
inductive Reject where
  /-- An illegal command word (30_encoding.md R63). -/
  | illegal (why : BadWord)
  /-- A select word that no row of 30_encoding.md R67 matches: the sequencer has nothing to do. -/
  | noOperation
deriving DecidableEq, Repr

/-- The two kinds of word a decoder row is about (opcode_table.json "format"). -/
inductive Code where
  /-- CMD16: a command word on the CMD port (30_encoding.md R60). -/
  | cmd16 (w : Word)
  /-- SEQ5: the sequencer select word {klast, more, PHASE} (30_encoding.md R66). -/
  | seq5 (k : Select)
deriving DecidableEq, Repr

end Sys2Proof
end

