-- ==== Sys2Proof/WellFormed.lean ====
section
/-! DEFINITION. Which operations name no reserved field (30_encoding.md R63). The must-be-zero fields
of R61 have no place in `Instr`; what remains is the reserved register indices and the reserved bits
of CTL. Decoding still hands an ill-formed WRC or RDR to its own rule, which raises ILLFLD
(R64 step 3). -/

namespace Sys2Proof

/-- The register index is one of the thirteen registers (10_state.md R24: 13, 14, 15 reserved). -/
def indexAssigned (r : RegIndex) : Bool := r.toNat ≤ 12

/-- A value written to CTL (index 4) has zeros in the reserved bits 7:1 (10_state.md R14). -/
def ctlReservedClear (r : RegIndex) (v : Byte) : Bool := r.toNat != 4 || v.extractLsb' 1 7 == 0

/-- No reserved field is named (30_encoding.md R63). -/
def WellFormed : Instr → Bool
  | .nop => true
  | .push _ => true
  | .endStream _ => true
  | .wrc r v => indexAssigned r && ctlReservedClear r v
  | .rdr r => indexAssigned r
  | .dumpb => true
  | .dumpx => true
  | .packb => true
  | .packx => true
  | .keyh => true
  | .xorb => true
  | .keyn => true
  | .fin => true

end Sys2Proof
end

