-- ==== Sys2Proof/Decode.lean ====
section
/-! DEFINITION. The decoder of command words (30_encoding.md R61 to R64) and of sequencer select words
(R66, R67), then the encoder written from the same tables. Words are 16 bits and travel whole: the
block has no byte order (20_memory.md R54). -/

namespace Sys2Proof

/-! ## The opcode table -/

/-- The operation's name in the tables of R61 and R67. -/
def mnemonic : Instr → String
  | .nop => "NOP"
  | .push _ => "PUSH"
  | .endStream _ => "END"
  | .wrc _ _ => "WRC"
  | .rdr _ => "RDR"
  | .dumpb => "DUMPB"
  | .dumpx => "DUMPX"
  | .packb => "PACKB"
  | .packx => "PACKX"
  | .keyh => "KEYH"
  | .xorb => "XORB"
  | .keyn => "KEYN"
  | .fin => "FIN"

/-- One row of the tables of R61 and R67: a word is this operation exactly when
`(w & mask) == match`. -/
structure Row (n : Nat) where
  mnemonic : String
  pattern : BitVec n
  mask : BitVec n
deriving DecidableEq, Repr

/-- `(w & mask) == match` (30_encoding.md R61). -/
def Row.hits {n : Nat} (row : Row n) (w : BitVec n) : Bool := w &&& row.mask == row.pattern

/-- Every pattern both rows could match differs somewhere under both masks. -/
def Row.disjoint {n : Nat} (a b : Row n) : Bool :=
  a.pattern &&& b.mask != b.pattern &&& a.mask

/-- The opcode map of 30_encoding.md R61. -/
def commandRows : List (Row 16) :=
  [ ⟨"NOP", 0x0000, 0xFFFF⟩, ⟨"PUSH", 0x1000, 0xFF00⟩, ⟨"END", 0x2000, 0xFFFE⟩,
    ⟨"WRC", 0x3000, 0xF000⟩, ⟨"RDR", 0x4000, 0xF0FF⟩ ]

/-- The sequencer operation map of 30_encoding.md R67, each row with its operation. -/
def selectRows : List (Row 5 × Instr) :=
  [ (⟨"DUMPB", 0b01010, 0b01111⟩, .dumpb), (⟨"DUMPX", 0b00010, 0b01111⟩, .dumpx),
    (⟨"PACKB", 0b01011, 0b01111⟩, .packb), (⟨"PACKX", 0b00011, 0b01111⟩, .packx),
    (⟨"KEYH", 0b00100, 0b00111⟩, .keyh), (⟨"XORB", 0b01101, 0b01111⟩, .xorb),
    (⟨"KEYN", 0b00101, 0b11111⟩, .keyn), (⟨"FIN", 0b10101, 0b11111⟩, .fin) ]

/-! ## Decoding -/

/-- `op = cmd[15:12]` (00_scope.md R9). -/
def opField (w : Word) : BitVec 4 := w.extractLsb' 12 4

/-- `r = cmd[11:8]` (00_scope.md R9). -/
def regField (w : Word) : RegIndex := w.extractLsb' 8 4

/-- `d = cmd[7:0]` (00_scope.md R9). -/
def dataField (w : Word) : Byte := w.extractLsb' 0 8

/-- Guard a decoded operation by its must-be-zero field (30_encoding.md R64 step 2). -/
def whenZero (clear : Bool) (i : Instr) : Except BadWord Instr :=
  if clear then .ok i else .error .mustBeZero

/-- The decoding procedure of 30_encoding.md R64: reserved opcode first, then the must-be-zero field,
then the operands as the unsigned integers their bits spell (R62). Total on all 65536 words. -/
def decodeCommand (w : Word) : Except BadWord Instr :=
  if 5 ≤ (opField w).toNat then .error .reservedOpcode
  else if opField w = 0 then whenZero (w.extractLsb' 0 12 == 0) .nop
  else if opField w = 1 then whenZero (regField w == 0) (.push (dataField w))
  else if opField w = 2 then whenZero (w.extractLsb' 1 11 == 0) (.endStream (w.getLsbD 0))
  else if opField w = 3 then .ok (.wrc (regField w) (dataField w))
  else whenZero (dataField w == 0) (.rdr (regField w))

/-- The sequencer operation a select word names, if any: the row of R67 that it matches. -/
def decodeSelect (k : Select) : Option Instr :=
  (selectRows.find? fun row => row.1.hits k).map Prod.snd

/-- The decoder over both kinds of word. -/
def decode : Code → Except Reject Instr
  | .cmd16 w =>
    match decodeCommand w with
    | .ok i => .ok i
    | .error e => .error (.illegal e)
  | .seq5 k =>
    match decodeSelect k with
    | some i => .ok i
    | none => .error .noOperation

/-- The operation of an opcode-table word: SEQ5 rows are 5 bits (one byte, the bits above them zero),
CMD16 rows 16. -/
def decodeTableWord (nbits w : Nat) : Option Instr :=
  if nbits ≤ 8 then
    if w < 32 then decodeSelect (BitVec.ofNat 5 w) else none
  else if nbits = 16 ∧ w < 65536 then
    match decodeCommand (BitVec.ofNat 16 w) with
    | .ok i => some i
    | .error _ => none
  else none

/-! ## Encoding -/

/-- `NOP` (30_encoding.md R61, R70). -/
def wordNop : Word := 0x0000

/-- `PUSH b` is `0x1000 | b` (30_encoding.md R70). -/
def wordPush (b : Byte) : Word := 0x1#4 ++ 0x0#4 ++ b

/-- `END f` is `0x2000 | f` (30_encoding.md R70). -/
def wordEnd (f : Bool) : Word := 0x2#4 ++ 0x000#11 ++ BitVec.ofBool f

/-- `WRC r, v` is `0x3000 | (r << 8) | v` (30_encoding.md R70). -/
def wordWrc (r : RegIndex) (v : Byte) : Word := 0x3#4 ++ r ++ v

/-- `RDR r` is `0x4000 | (r << 8)` (30_encoding.md R70). -/
def wordRdr (r : RegIndex) : Word := 0x4#4 ++ r ++ 0x00#8

/-- The encoder: a command's word, or the `match` value of a sequencer operation's row (its don't-care
bits zero). -/
def encode : Instr → Code
  | .nop => .cmd16 wordNop
  | .push b => .cmd16 (wordPush b)
  | .endStream f => .cmd16 (wordEnd f)
  | .wrc r v => .cmd16 (wordWrc r v)
  | .rdr r => .cmd16 (wordRdr r)
  | .dumpb => .seq5 0b01010
  | .dumpx => .seq5 0b00010
  | .packb => .seq5 0b01011
  | .packx => .seq5 0b00011
  | .keyh => .seq5 0b00100
  | .xorb => .seq5 0b01101
  | .keyn => .seq5 0b00101
  | .fin => .seq5 0b10101

end Sys2Proof
end

