-- ==== Sys2Proof/Config.lean ====
section
/-! DEFINITION. What an implementation of the block fixes: the one open parameter ACC_CAP
(00_scope.md R6). Every other size is fixed by the spec and is no parameter (R7). -/

namespace Sys2Proof

/-- The implementation parameters. "A model should take `ACC_CAP` as an argument" (00_scope.md R6):
the machine carries this record beside its state, and no step changes it (log 1). -/
structure Config where
  /-- ACC_CAP, the capacity of the bit accumulator in bits; `none` is "unbounded" (R6). -/
  accCap : Option Nat
deriving DecidableEq, Repr

end Sys2Proof
end

