-- ==== Sys2Proof/Machine/State.lean ====
section
/-! DEFINITION. The state of the block (10_state.md), the reasons a step can stop, the OUT records
(30_encoding.md R68, R69), and the state after reset (70_reset_and_hazards.md R151). -/

namespace Sys2Proof.Machine

/-- The sequencer phase, a 3-bit register all of whose codes are named (10_state.md R20). -/
inductive Phase where
  | idle | scan | dump | pack | xorh | xorb | done | fault
deriving DecidableEq, Repr

/-- The fault codes 1 to 6 of 60_exceptions.md R131; codes 7 to 15 "never recorded" (U11). -/
inductive FaultCode where
  /-- 1: the opcode is 0x5 to 0xF. -/
  | illop
  /-- 2: a must-be-zero field, a reserved register index or reserved CTL bits. -/
  | illfld
  /-- 3: WRC of a writable register outside IDLE. -/
  | cfglock
  /-- 4: PUSH or END in DONE. -/
  | seq
  /-- 5: a recognized window with the accumulator full. -/
  | accovf
  /-- 6: WRC of a read-only register. -/
  | roreg
deriving DecidableEq, Repr

/-- An output record (30_encoding.md R69). Kinds 0x0 and 0x8 to 0xE have no constructor (U11). -/
inductive Record where
  | trace (b : Byte) (m : Bool)
  | bit (x : BitVec 1)
  | rbyte (v : Byte)
  | keyrec (k : Byte)
  | cand (c : Byte)
  | done
  | reg (r : RegIndex) (v : Byte)
  | fault (code : FaultCode)
deriving DecidableEq, Repr

/-- The block's state (10_state.md section 1), then the four fields that are the model's own
(INVENTORY.md "State": the parameters, the host's two inputs, and the OUT log). -/
structure State where
  /-- W[0], the oldest window byte (R10). -/
  w0 : Byte
  /-- W[1], the middle window byte (R10). -/
  w1 : Byte
  /-- W[2], the current byte (R10). -/
  w2 : Byte
  /-- P1, prefix-byte-1 (R12). -/
  p1 : Byte
  /-- P2, prefix-byte-2 (R12). -/
  p2 : Byte
  /-- IA, indicator-A (R12). -/
  ia : Byte
  /-- IB, indicator-B (R12). -/
  ib : Byte
  /-- CTL.ANY3 (R14). -/
  any3 : Bool
  /-- PHASE (R20). -/
  phase : Phase
  /-- STATUS.SRCFAIL (R15). -/
  srcFail : Bool
  /-- CAUSE.CODE; `none` is code 0, "no fault since reset" (R16). -/
  code : Option FaultCode
  /-- CAUSE.FPHASE, PHASE when the fault was raised (R16). -/
  fphase : Phase
  /-- BADH, bits 15:8 of the faulting word (R17). -/
  badh : Byte
  /-- BADL, bits 7:0 of the faulting word (R17). -/
  badl : Byte
  /-- KEY (R18). -/
  key : Byte
  /-- IDX, the index of the current loop (R19). -/
  idx : Nat
  /-- ACC as "a sequence of exactly BITCNT bits", address 0 first (R21; 20_memory.md R48). -/
  acc : List Bool
  /-- RB as "a sequence of exactly BYTECNT bytes", address 0 first (R22; 20_memory.md R48). -/
  rb : List Byte
  /-- The parameter ACC_CAP, no state of the block (00_scope.md R6; log 1). -/
  config : Config
  /-- The words the host presents on CMD, not yet accepted, in order (00_scope.md R3; log 2). -/
  cmd : List Word
  /-- The host's RESET input: how many steps the block takes before each reset event, the first one
  counted from here and each later one from the event before it (70_reset_and_hazards.md R154;
  log 3). -/
  resets : List Nat
  /-- The OUT log since the last reset, oldest record first (00_scope.md R5; log 4). -/
  out : List Record
deriving DecidableEq, Repr

/-- The model's own stops. The block's faults (60_exceptions.md) are none of these: they are taken and
end in a next state. -/
inductive Fault where
  /-- A sequencer operation executed in a state whose select word does not name it (30_encoding.md
  R67). Raised by the eight sequencer meanings; no step raises it. Safe: the spec gives the operation
  no effect there (log 6). -/
  | notSelected
  /-- A read of an ACC location at or above BITCNT, or an RB location at or above BYTECNT. Raised by
  DUMPB, PACKB and XORB; no step raises it. Safe: "a model that could read one must fault"
  (20_memory.md R48, U6; log 6). -/
  | unwrittenRead
deriving DecidableEq, Repr

/-- Reasons to give an instruction no meaning. -/
inductive Refusal where
  /-- An instruction whose arm of `exec` has no meaning yet. Raised by `exec` alone; no arm does. Safe. -/
  | notModelled (mnemonic : String)
deriving DecidableEq, Repr

/-- The machine right after a reset event (70_reset_and_hazards.md R151). The last four fields are the
model's: an unbounded accumulator (DESIGN CHOICE, log 1), a host that presents nothing and asserts no
reset (DESIGN CHOICE, log 2, 3, 11), and the empty OUT log (R155). -/
def State.reset : State where
  w0 := 0x00
  w1 := 0x00
  w2 := 0x00
  p1 := 0xE2
  p2 := 0x80
  ia := 0x8C
  ib := 0x8D
  any3 := false
  phase := .idle
  srcFail := false
  code := none
  fphase := .idle
  badh := 0x00
  badl := 0x00
  key := 0x00
  idx := 0
  acc := []
  rb := []
  config := ⟨none⟩
  cmd := []
  resets := []
  out := []

end Sys2Proof.Machine
end

