-- ==== Sys2Proof/Machine/Ops.lean ====
section
/-! DEFINITION. The named operations over the state: codes of phases, faults and records; the two
memories (20_memory.md); emitting a record; taking a fault (60_exceptions.md R133) and leaving it by a
reset event (R135, 70_reset_and_hazards.md R150); the select word (30_encoding.md R66); and the two
shapes every meaning has, a command and a sequencer operation. -/

namespace Sys2Proof.Machine

/-- The outcome of one operation or step of this machine. -/
abbrev Result := Host.Outcome State Fault Refusal

/-! ## Codes -/

/-- The PHASE codes of 10_state.md R20. -/
def phaseBits : Phase → BitVec 3
  | .idle => 0
  | .scan => 1
  | .dump => 2
  | .pack => 3
  | .xorh => 4
  | .xorb => 5
  | .done => 6
  | .fault => 7

/-- The fault codes of 60_exceptions.md R131. -/
def faultBits : FaultCode → BitVec 4
  | .illop => 1
  | .illfld => 2
  | .cfglock => 3
  | .seq => 4
  | .accovf => 5
  | .roreg => 6

/-- CAUSE.CODE as 4 bits, 0 when no fault was raised since reset (10_state.md R16). -/
def codeBits : Option FaultCode → BitVec 4
  | none => 0
  | some c => faultBits c

/-- The fault an illegal command word raises (30_encoding.md R64 steps 1 and 2). -/
def badWordFault : BadWord → FaultCode
  | .reservedOpcode => .illop
  | .mustBeZero => .illfld

/-- The 16-bit word `{kind, aux, data}` of a record (30_encoding.md R68, R69). -/
def recordWord : Record → Word
  | .trace b m => 0x1#4 ++ 0#3 ++ BitVec.ofBool m ++ b
  | .bit x => 0x2#4 ++ 0#4 ++ 0#7 ++ x
  | .rbyte v => 0x3#4 ++ 0#4 ++ v
  | .keyrec k => 0x4#4 ++ 0#4 ++ k
  | .cand c => 0x5#4 ++ 0#4 ++ c
  | .done => 0x6000
  | .reg r v => 0x7#4 ++ r ++ v
  | .fault c => 0xF#4 ++ faultBits c ++ 0x00#8

/-! ## Counters and capacities -/

/-- BITCNT, the number of bits in the accumulator (10_state.md R19). -/
abbrev State.bitCnt (s : State) : Nat := s.acc.length

/-- BYTECNT, the number of bytes in the reconstructed byte store (10_state.md R19). -/
abbrev State.byteCnt (s : State) : Nat := s.rb.length

/-- `BITCNT == ACC_CAP`, never true of an unbounded accumulator (41_marker_scanner.md R84,
00_scope.md R6). -/
def State.accFull (s : State) : Bool :=
  match s.config.accCap with
  | some cap => s.bitCnt == cap
  | none => false

/-- `n` is within the capacity `cap`. -/
def withinCap (cap : Option Nat) (n : Nat) : Bool :=
  match cap with
  | some k => n ≤ k
  | none => true

/-- RB_CAP = floor(ACC_CAP / 8) (00_scope.md R6). -/
def rbCap (c : Config) : Option Nat := c.accCap.map (· / 8)

/-- The form of the two memories: the written locations all exist, that is `BITCNT <= ACC_CAP` and
`BYTECNT <= RB_CAP` (20_memory.md R40, R49). The lists hold exactly the written locations (R48), so
equal memories are equal data. -/
def Memory.wf (s : State) : Bool :=
  withinCap s.config.accCap s.bitCnt && withinCap (rbCap s.config) s.byteCnt

/-! ## Memory accesses -/

/-- Bits in address order as one unsigned value, "the bit at the lowest address is the most
significant" (20_memory.md R42). -/
def bitsValue (bits : List Bool) : Nat := bits.foldl (fun v b => 2 * v + b.toNat) 0

/-- `MemRead(ACC, a, n)`; `none` where an unwritten location would be read (20_memory.md R42, R48). -/
def State.readAcc (s : State) (a n : Nat) : Option (BitVec n) :=
  if a + n ≤ s.bitCnt then some (BitVec.ofNat n (bitsValue ((s.acc.drop a).take n))) else none

/-- `MemWrite(ACC, BITCNT, 1, b)` and `BITCNT <- BITCNT + 1`, the only write to ACC (20_memory.md
R41). -/
def State.appendAcc (s : State) (b : Bool) : State := { s with acc := s.acc ++ [b] }

/-- `MemRead(RB, j, 1)`; `none` where the location is unwritten (20_memory.md R44, R48). -/
def State.readRb (s : State) (j : Nat) : Option Byte := s.rb[j]?

/-- `MemWrite(RB, BYTECNT, 1, v)` and `BYTECNT <- BYTECNT + 1`, the only write to RB (20_memory.md
R44). -/
def State.appendRb (s : State) (v : Byte) : State := { s with rb := s.rb ++ [v] }

/-! ## Register writes -/

/-- `emit(rec)`: append one record to the OUT log (00_scope.md R9). -/
def State.emit (s : State) (rec : Record) : State := { s with out := s.out ++ [rec] }

/-- `PHASE <- p` (00_scope.md R9). -/
def State.setPhase (s : State) (p : Phase) : State := { s with phase := p }

/-- `IDX <- n` (10_state.md R19). -/
def State.setIdx (s : State) (n : Nat) : State := { s with idx := n }

/-- `KEY <- k` (10_state.md R18). -/
def State.setKey (s : State) (k : Byte) : State := { s with key := k }

/-- `STATUS.SRCFAIL <- f` (10_state.md R15). -/
def State.setSrcFail (s : State) (f : Bool) : State := { s with srcFail := f }

/-- The window shift of 41_marker_scanner.md R80: evict the oldest byte, append the newest. -/
def State.shift (s : State) (b : Byte) : State := { s with w0 := s.w1, w1 := s.w2, w2 := b }

/-! ## Taking a fault, and the way back -/

/-- `raise Fault(code)`, fault entry for the command word `w` (60_exceptions.md R133): "Nothing else
changes". -/
def State.raise (s : State) (c : FaultCode) (w : Word) : State :=
  { s with
    code := some c
    fphase := s.phase
    badh := w.extractLsb' 8 8
    badl := w.extractLsb' 0 8
    phase := .fault
    out := s.out ++ [.fault c] }

/-- The reset event, the only exit from FAULT (60_exceptions.md R135): every register to its reset
value (70_reset_and_hazards.md R151), no record, no command word consumed (R150), the OUT log
restarted (R155). The parameters and the host's inputs are not the block's to reset. -/
def State.resetEvent (s : State) : State :=
  { State.reset with config := s.config, cmd := s.cmd, resets := s.resets }

/-! ## The sequencer select word -/

/-- The phase is busy: the block produces results and accepts no command (00_scope.md section 7). -/
def isBusy : Phase → Bool
  | .dump => true
  | .pack => true
  | .xorh => true
  | .xorb => true
  | .idle => false
  | .scan => false
  | .done => false
  | .fault => false

/-- `more` of 30_encoding.md R66: the current loop has another element. R66 names the four busy
phases; in the others no row of R67 matches either value, and it is 0. -/
def State.more (s : State) : Bool :=
  match s.phase with
  | .dump => s.idx < s.bitCnt
  | .pack => s.byteCnt < s.bitCnt / 8
  | .xorb => s.idx < s.byteCnt
  | .xorh => false
  | .idle => false
  | .scan => false
  | .done => false
  | .fault => false

/-- `klast` of 30_encoding.md R66: `KEY == 0xFF`. -/
def State.klast (s : State) : Bool := s.key == 0xFF

/-- `ssw = {klast, more, PHASE}` (30_encoding.md R66). -/
def State.select (s : State) : Select :=
  BitVec.ofBool s.klast ++ BitVec.ofBool s.more ++ phaseBits s.phase

/-! ## The two shapes of a meaning -/

/-- Whether a command executes in phase FAULT when none of its checks fails (60_exceptions.md R134:
NOP and RDR do, every other command is discarded). -/
inductive InFault where
  | executes
  | discarded
deriving DecidableEq, Repr

/-- A command whose word is `w`, whose first failing check is `check`, and whose effect is `effect`.
Busy: not accepted, no effect (60_exceptions.md R140; log 8). FAULT: executed or discarded, never a
second fault (R134). Otherwise: fault entry if a check fails, else the effect (R130, R138). -/
def runCommand (w : Word) (f : InFault) (check : Option FaultCode) (effect : State → State)
    (s : State) : Result :=
  if isBusy s.phase then .next s
  else if s.phase = .fault then
    if f = .executes ∧ check = none then .next (effect s) else .next s
  else
    match check with
    | some c => .next (s.raise c w)
    | none => .next (effect s)

/-- A sequencer operation: it runs where the select word names it (30_encoding.md R67) and nowhere
else. -/
def runSelected (i : Instr) (act : State → Result) (s : State) : Result :=
  if decodeSelect s.select = some i then act s else .fault .notSelected

/-- Use a value read from a memory; an unwritten location stops the model (20_memory.md R48, U6). -/
def withRead {α : Type} (read : Option α) (act : α → State) : Result :=
  match read with
  | some v => .next (act v)
  | none => .fault .unwrittenRead

/-- What an accepted word that decodes to no operation does: fault entry (30_encoding.md R64), or in
phase FAULT nothing (60_exceptions.md R134). -/
def State.rejectWord (s : State) (e : BadWord) (w : Word) : State :=
  if s.phase = .fault then s else s.raise (badWordFault e) w

/-! ## The RESET input -/

/-- A reset event is due before the next step of the block (70_reset_and_hazards.md R154). -/
def State.resetDue (s : State) : Bool := s.resets.head? == some 0

/-- The host has caused the reset event that was due. -/
def State.dropReset (s : State) : State := { s with resets := s.resets.tail }

/-- One step fewer to the next reset event. -/
def State.tickReset (s : State) : State :=
  { s with
    resets := match s.resets with
      | [] => []
      | n :: rest => (n - 1) :: rest }

end Sys2Proof.Machine
end

