-- ==== Sys2Proof/Machine/KeyIterator.lean ====
section
/-! DEFINITION. The single-byte XOR key iterator: KEYH, XORB, KEYN, FIN (43_xor_key_iterator.md). -/

namespace Sys2Proof.Machine

/-- KEYH (43_xor_key_iterator.md R100): emit the header of the current key. -/
def execKeyh (s : State) : Result :=
  runSelected .keyh
    (fun t => .next (((t.emit (.keyrec t.key)).setIdx 0).setPhase .xorb)) s

/-- XORB (43_xor_key_iterator.md R101): emit the candidate byte at IDX. -/
def execXorb (s : State) : Result :=
  runSelected .xorb
    (fun t => withRead (t.readRb t.idx) fun v => (t.emit (.cand (v ^^^ t.key))).setIdx (t.idx + 1))
    s

/-- KEYN (43_xor_key_iterator.md R102): advance to the next key, before 0xFF only. -/
def execKeyn (s : State) : Result :=
  runSelected .keyn (fun t => .next ((t.setKey (t.key + 1)).setPhase .xorh)) s

/-- FIN (43_xor_key_iterator.md R103): finish the run. -/
def execFin (s : State) : Result :=
  runSelected .fin (fun t => .next ((t.emit .done).setPhase .done)) s

end Sys2Proof.Machine
end

