-- ==== Sys2Proof/Machine/Packer.lean ====
section
/-! DEFINITION. The bit accumulator's read-out and the packer: DUMPB, DUMPX, PACKB, PACKX
(42_accumulator_packer.md). -/

namespace Sys2Proof.Machine

/-- DUMPB (42_accumulator_packer.md R90): emit the accumulator bit at IDX. -/
def execDumpb (s : State) : Result :=
  runSelected .dumpb
    (fun t => withRead (t.readAcc t.idx 1) fun x => (t.emit (.bit x)).setIdx (t.idx + 1)) s

/-- DUMPX (42_accumulator_packer.md R91): leave the dump phase. -/
def execDumpx (s : State) : Result :=
  runSelected .dumpx (fun t => .next ((t.setIdx 0).setPhase .pack)) s

/-- PACKB (42_accumulator_packer.md R93): pack the next group of eight bits, store and emit it. -/
def execPackb (s : State) : Result :=
  runSelected .packb
    (fun t => withRead (t.readAcc (8 * t.byteCnt) 8) fun v => (t.appendRb v).emit (.rbyte v)) s

/-- PACKX (42_accumulator_packer.md R94): leave the pack phase and start the key loop. -/
def execPackx (s : State) : Result :=
  runSelected .packx (fun t => .next ((t.setKey 0x00).setPhase .xorh)) s

end Sys2Proof.Machine
end

