-- ==== Sys2Proof/Machine/Operands.lean ====
section
/-! DEFINITION. The operand form of the block: the register index map with its access rights
(10_state.md R24), and the bytes of the registers that are made of fields (R14, R15, R16). -/

namespace Sys2Proof.Machine

/-- CTL reads as `{0b0000000, ANY3}` (10_state.md R24). -/
def State.ctlByte (s : State) : Byte := 0#7 ++ BitVec.ofBool s.any3

/-- STATUS reads as `{0b0000, SRCFAIL, PHASE}` (10_state.md R24). -/
def State.statusByte (s : State) : Byte := 0#4 ++ BitVec.ofBool s.srcFail ++ phaseBits s.phase

/-- CAUSE reads as `{0b0, FPHASE, CODE}` (10_state.md R24). -/
def State.causeByte (s : State) : Byte := 0#1 ++ phaseBits s.fphase ++ codeBits s.code

/-- "RDR returns" of 10_state.md R24; `none` for the reserved indices 13, 14, 15. -/
def State.readReg (s : State) (r : RegIndex) : Option Byte :=
  match r.toNat with
  | 0 => some s.p1
  | 1 => some s.p2
  | 2 => some s.ia
  | 3 => some s.ib
  | 4 => some s.ctlByte
  | 5 => some s.statusByte
  | 6 => some s.causeByte
  | 7 => some s.badh
  | 8 => some s.badl
  | 9 => some s.w0
  | 10 => some s.w1
  | 11 => some s.w2
  | 12 => some s.key
  | _ => none

/-- The write of 44_config_and_status.md R111 to the five writable registers; the other indices have
no write. -/
def State.writeReg (s : State) (r : RegIndex) (v : Byte) : State :=
  match r.toNat with
  | 0 => { s with p1 := v }
  | 1 => { s with p2 := v }
  | 2 => { s with ia := v }
  | 3 => { s with ib := v }
  | 4 => { s with any3 := v.getLsbD 0 }
  | _ => s

/-- The checks of WRC in the order of 44_config_and_status.md R111 (60_exceptions.md R132): reserved
index, reserved CTL bits, read-only register, configuration locked. -/
def State.wrcCheck (s : State) (r : RegIndex) (v : Byte) : Option FaultCode :=
  if !indexAssigned r then some .illfld
  else if !ctlReservedClear r v then some .illfld
  else if 5 ≤ r.toNat then some .roreg
  else if s.phase != .idle then some .cfglock
  else none

/-- The check of RDR (44_config_and_status.md R112): reserved index. -/
def rdrCheck (r : RegIndex) : Option FaultCode :=
  if !indexAssigned r then some .illfld else none

end Sys2Proof.Machine
end

