-- ==== Sys2Proof/Machine/Port.lean ====
section
/-! DEFINITION. The configuration and status commands NOP, WRC and RDR (44_config_and_status.md). -/

namespace Sys2Proof.Machine

/-- NOP (44_config_and_status.md R110): no write, no record. -/
def execNop (s : State) : Result := runCommand wordNop .executes none id s

/-- WRC r, v (44_config_and_status.md R111). -/
def execWrc (r : RegIndex) (v : Byte) (s : State) : Result :=
  runCommand (wordWrc r v) .discarded (s.wrcCheck r v) (fun t => t.writeReg r v) s

/-- The effect of RDR: one REG record with the register's value before the step; the reserved indices,
which have none, fail its check. -/
def State.rdrEffect (r : RegIndex) (s : State) : State :=
  match s.readReg r with
  | some v => s.emit (.reg r v)
  | none => s

/-- RDR r (44_config_and_status.md R112). -/
def execRdr (r : RegIndex) (s : State) : Result :=
  runCommand (wordRdr r) .executes (rdrCheck r) (State.rdrEffect r) s

end Sys2Proof.Machine
end

