-- ==== Sys2Proof/Machine/Flags.lean ====
section
/-! DEFINITION. The values the scanner computes from bytes and configuration (41_marker_scanner.md
R81 to R83). The block stores no arithmetic flags (10_state.md R23); these are "computed and consumed
inside that one step". -/

namespace Sys2Proof.Machine

/-- The recognition predicate `rec` on a window (41_marker_scanner.md R81). -/
def State.recognizes (s : State) (w0 w1 w2 : Byte) : Bool :=
  w0 == s.p1 && w1 == s.p2 && (s.any3 || w2 == s.ia || w2 == s.ib)

/-- `r` of R84: the recognition of the window that a PUSH of `b` makes. -/
def State.pushRecognized (s : State) (b : Byte) : Bool := s.recognizes s.w1 s.w2 b

/-- The payload bit `w2[0]` of a recognized window (41_marker_scanner.md R82). -/
def payloadBit (w2 : Byte) : Bool := w2.getLsbD 0

/-- The marker flag of a byte (41_marker_scanner.md R83). -/
def State.mflag (s : State) (b : Byte) : Bool :=
  b == s.p1 || b == s.p2 || b == s.ia || b == s.ib

/-- The checks of PUSH (41_marker_scanner.md R84): the run is complete, or the new window is recognized
and the accumulator full. -/
def State.pushCheck (s : State) (b : Byte) : Option FaultCode :=
  if s.phase = .done then some .seq
  else if s.pushRecognized b && s.accFull then some .accovf
  else none

/-- The check of END (41_marker_scanner.md R85): the run is complete. -/
def State.endCheck (s : State) : Option FaultCode :=
  if s.phase = .done then some .seq else none

end Sys2Proof.Machine
end

