-- ==== Sys2Proof/Machine/Scanner.lean ====
section
/-! DEFINITION. The marker scanner's commands PUSH and END (41_marker_scanner.md). -/

namespace Sys2Proof.Machine

/-- The effect of a PUSH that passes its checks (41_marker_scanner.md R84): window, TRACE, append if
recognized, PHASE to SCAN. -/
def State.pushEffect (b : Byte) (s : State) : State :=
  let t := ((s.shift b).emit (.trace b (s.mflag b))).setPhase .scan
  if s.pushRecognized b then t.appendAcc (payloadBit b) else t

/-- PUSH b (41_marker_scanner.md R84). -/
def execPush (b : Byte) (s : State) : Result :=
  runCommand (wordPush b) .discarded (s.pushCheck b) (State.pushEffect b) s

/-- END f (41_marker_scanner.md R85). -/
def execEndStream (f : Bool) (s : State) : Result :=
  runCommand (wordEnd f) .discarded s.endCheck
    (fun t => ((t.setSrcFail f).setIdx 0).setPhase .dump) s

end Sys2Proof.Machine
end

