-- ==== Sys2Proof/Machine/Dispatch.lean ====
section
/-! DEFINITION. One arm per operation of the block (30_encoding.md R61, R67). -/

namespace Sys2Proof.Machine

/-- The meaning of every operation, in the state in which it executes. -/
def exec (i : Instr) (s : State) : Host.Outcome State Fault Refusal :=
  match i with
  | .nop => Sys2Proof.Machine.execNop s
  | .push b => Sys2Proof.Machine.execPush b s
  | .endStream f => Sys2Proof.Machine.execEndStream f s
  | .wrc r v => Sys2Proof.Machine.execWrc r v s
  | .rdr r => Sys2Proof.Machine.execRdr r s
  | .dumpb => Sys2Proof.Machine.execDumpb s
  | .dumpx => Sys2Proof.Machine.execDumpx s
  | .packb => Sys2Proof.Machine.execPackb s
  | .packx => Sys2Proof.Machine.execPackx s
  | .keyh => Sys2Proof.Machine.execKeyh s
  | .xorb => Sys2Proof.Machine.execXorb s
  | .keyn => Sys2Proof.Machine.execKeyn s
  | .fin => Sys2Proof.Machine.execFin s

end Sys2Proof.Machine
end

