-- ==== Sys2Proof/Machine/Cycle.lean ====
section
/-! DEFINITION. What the block does in one step when no reset event falls: a sequencer operation in a
busy phase, otherwise the next command word, otherwise waiting (00_scope.md R4; 30_encoding.md R66;
60_exceptions.md R140, R141). -/

namespace Sys2Proof.Machine

/-- Accept the command word `w` (30_encoding.md R64): run the operation it decodes to, or take the
fault of an illegal word. -/
def acceptWord (w : Word) (s : State) : Result :=
  match decodeCommand w with
  | .ok i => exec i s
  | .error e => .next (s.rejectWord e w)

/-- One step of the block without a reset event. A word at the port stays there while a sequencer
operation is selected (60_exceptions.md R140). With no word presented the block "simply waits for the
next command or reset, keeping all its state" (R141; log 2). -/
def blockStep (s : State) : Result :=
  match decodeSelect s.select with
  | some i => exec i s
  | none =>
    match s.cmd with
    | w :: rest => acceptWord w { s with cmd := rest }
    | [] => .next s

/-- One step: the reset event if the host causes one here (70_reset_and_hazards.md R150), else a step
of the block. -/
def oneStep (s : State) : Result :=
  if s.resetDue then .next s.dropReset.resetEvent else blockStep s.tickReset

/-- A phase in which the port accepts a word: the phase itself, or for a busy phase DONE, in which a
held word is accepted (60_exceptions.md R140). -/
def acceptingPhase (p : Phase) : Phase := if isBusy p then .done else p

/-- `s` with the host's next word `w` at the CMD port, in a phase that accepts it, and no reset event
due. -/
def State.withCommand (s : State) (w : Word) : State :=
  { s with
    cmd := w :: s.cmd
    phase := acceptingPhase s.phase
    resets := s.resets.dropWhile (· == 0) }

/-- The phase of a 3-bit code (10_state.md R20). -/
def phaseOfBits (b : BitVec 3) : Phase :=
  match b.toNat with
  | 0 => .idle
  | 1 => .scan
  | 2 => .dump
  | 3 => .pack
  | 4 => .xorh
  | 5 => .xorb
  | 6 => .done
  | _ => .fault

/-- `s` with the phase, the key and the loop counters of the select word `k`, and no reset event due:
`klast` by KEY, `more` by one loop element or none (30_encoding.md R66). -/
def State.withSelect (s : State) (k : Select) : State :=
  let p := phaseOfBits (k.extractLsb' 0 3)
  let more := k.getLsbD 3
  let t := { s with
    phase := p
    key := if k.getLsbD 4 then 0xFF else if s.key == 0xFF then 0x00 else s.key
    resets := s.resets.dropWhile (· == 0) }
  match p with
  | .dump =>
    if more then { t with idx := 0, acc := if s.acc.isEmpty then [false] else s.acc }
    else { t with idx := s.bitCnt }
  | .pack =>
    if more then
      { t with rb := [], acc := if s.bitCnt < 8 then s.acc ++ List.replicate 8 false else s.acc }
    else { t with acc := s.acc.take (8 * s.byteCnt) }
  | .xorb =>
    if more then { t with idx := 0, rb := if s.rb.isEmpty then [0x00] else s.rb }
    else { t with idx := s.byteCnt }
  | .idle => t
  | .scan => t
  | .xorh => t
  | .done => t
  | .fault => t

end Sys2Proof.Machine
end

