-- ==== Sys2Proof/Machine/Step.lean ====
section
/-! DEFINITION. The step of the machine, and the state whose next step runs a given word. -/

namespace Sys2Proof.Machine

/-- One step of the machine (00_scope.md R4). -/
def step (s : State) : Host.Outcome State Fault Refusal := oneStep s

/-- `s` with the instruction of the opcode-table word `w` the next thing it runs: a command word at the
CMD port (CMD16), or for a row of SEQ5 (at most 8 bits) the sequencer state that the select word
describes, unless `s` has it already (log 11). -/
def State.withFetchWord (s : State) (nbits w : Nat) : State :=
  if nbits ≤ 8 then
    if s.select = BitVec.ofNat 5 w ∧ s.resetDue = false then s else s.withSelect (BitVec.ofNat 5 w)
  else s.withCommand (BitVec.ofNat 16 w)

end Sys2Proof.Machine
end

