-- ==== Sys2Proof/Machine/Assembler.lean ====
section
/-! DEFINITION. The text form of command sequences as data: register names, one line per command, and
the pseudo-commands with their expansions (30_encoding.md R70, R71). The line `RESET` is "not a
command" and has no word: a reset event is the host's other input. -/

namespace Sys2Proof.Machine

/-- The register names of 30_encoding.md R70. -/
inductive RegName where
  | p1 | p2 | ia | ib | ctl | status | cause | badh | badl | w0 | w1 | w2 | key
deriving DecidableEq, Repr

/-- The number a register name stands for (30_encoding.md R70; 10_state.md R24). -/
def regNumber : RegName → RegIndex
  | .p1 => 0
  | .p2 => 1
  | .ia => 2
  | .ib => 3
  | .ctl => 4
  | .status => 5
  | .cause => 6
  | .badh => 7
  | .badl => 8
  | .w0 => 9
  | .w1 => 10
  | .w2 => 11
  | .key => 12

/-- One line of a command sequence (30_encoding.md R70), pseudo-commands included (R71). -/
inductive AsmLine where
  | nop
  | push (b : Byte)
  | endStream (f : Bool)
  | wrc (r : RegIndex) (v : Byte)
  | rdr (r : RegIndex)
  /-- `.word w`: any 16-bit word. -/
  | word (w : Word)
  /-- `STREAM b0, ..., bn`. -/
  | stream (bytes : List Byte)
  /-- `SETPAT p1, p2, ia, ib`. -/
  | setPat (p1 p2 ia ib : Byte)
  /-- `ANY3 x`. -/
  | any3 (x : Bool)
  /-- `ENDFAIL`. -/
  | endFail
deriving DecidableEq, Repr

/-- The words of one line, a pseudo-command expanded (30_encoding.md R70, R71). -/
def lineWords : AsmLine → List Word
  | .nop => [wordNop]
  | .push b => [wordPush b]
  | .endStream f => [wordEnd f]
  | .wrc r v => [wordWrc r v]
  | .rdr r => [wordRdr r]
  | .word w => [w]
  | .stream bytes => bytes.map wordPush
  | .setPat p1 p2 ia ib =>
    [wordWrc (regNumber .p1) p1, wordWrc (regNumber .p2) p2, wordWrc (regNumber .ia) ia,
      wordWrc (regNumber .ib) ib]
  | .any3 x => [wordWrc (regNumber .ctl) (0#7 ++ BitVec.ofBool x)]
  | .endFail => [wordEnd true]

/-- The words of a command sequence, in order. -/
def assemble (lines : List AsmLine) : List Word := lines.flatMap lineWords

end Sys2Proof.Machine
end

