-- ==== Sys2Proof/Machine/WholeRun.lean ====
section
/-! DEFINITION. The whole run as one pure function of the configuration and the byte stream
(45_whole_run.md R120 to R123), written from that file and not from the operations. "If the two ever
disagree the operation rules govern": the step and its meanings are the model, this is what claims
about whole runs compare it with. -/

namespace Sys2Proof.Machine

/-- The configuration `cfg = (P1, P2, IA, IB, ANY3)` of a run (45_whole_run.md section 1). -/
structure Pattern where
  p1 : Byte
  p2 : Byte
  ia : Byte
  ib : Byte
  any3 : Bool
deriving DecidableEq, Repr

/-- The configuration a state holds. -/
def State.pattern (s : State) : Pattern := ⟨s.p1, s.p2, s.ia, s.ib, s.any3⟩

/-! ## Inputs (45_whole_run.md section 1) -/

/-- A command word of a plain run before its END: "no other command word" stands there. -/
inductive PlainCommand where
  | nop
  | rdr (r : RegIndex)
  | wrc (r : RegIndex) (v : Byte)
  | push (b : Byte)
deriving DecidableEq, Repr

/-- The command's word. -/
def PlainCommand.word : PlainCommand → Word
  | .nop => wordNop
  | .rdr r => wordRdr r
  | .wrc r v => wordWrc r v
  | .push b => wordPush b

/-- "well-formed RDR commands (`r <= 12`)" and "well-formed WRC commands to registers 0 to 4". -/
def PlainCommand.allowed : PlainCommand → Bool
  | .nop => true
  | .rdr r => r.toNat ≤ 12
  | .wrc r v => r.toNat ≤ 3 || (r == 4 && v.toNat ≤ 1)
  | .push _ => true

/-- The stream byte of a PUSH. -/
def PlainCommand.pushed : PlainCommand → Option Byte
  | .nop => none
  | .rdr _ => none
  | .wrc _ _ => none
  | .push b => some b

/-- The configuration register a WRC addresses, and the value it writes there. -/
def PlainCommand.written : PlainCommand → Option (RegIndex × Byte)
  | .nop => none
  | .rdr _ => none
  | .wrc r v => some (r, v)
  | .push _ => none

/-- The configuration with register `r` overwritten by `v`. -/
def Pattern.write (c : Pattern) (r : RegIndex) (v : Byte) : Pattern :=
  match r.toNat with
  | 0 => { c with p1 := v }
  | 1 => { c with p2 := v }
  | 2 => { c with ia := v }
  | 3 => { c with ib := v }
  | 4 => { c with any3 := v.toNat == 1 }
  | _ => c

/-- The configuration "overwritten by the WRC commands in order". -/
def Pattern.configure (c : Pattern) (cmds : List PlainCommand) : Pattern :=
  (cmds.filterMap PlainCommand.written).foldl (fun p x => p.write x.1 x.2) c

/-- `byte[0]`, ..., `byte[n-1]`: the bytes of the PUSH commands in order. -/
def streamOf (cmds : List PlainCommand) : List Byte := cmds.filterMap PlainCommand.pushed

/-! ## The function -/

/-- `byte[i - back]`, "with an index below 0 reading as 0x00" (R120). -/
def byteBefore (bytes : List Byte) (i back : Nat) : Byte :=
  if back ≤ i then bytes.getD (i - back) 0x00 else 0x00

/-- `win(i)` (R120). -/
def windowAt (bytes : List Byte) (i : Nat) : Byte × Byte × Byte :=
  (byteBefore bytes i 2, byteBefore bytes i 1, byteBefore bytes i 0)

/-- The window after the whole stream: `win(n-1)`, or the seed for the empty stream (R122). -/
def lastWindow (bytes : List Byte) : Byte × Byte × Byte :=
  if bytes = [] then (0x00, 0x00, 0x00) else windowAt bytes (bytes.length - 1)

/-- `flag(i)` as a function of the byte (R120). -/
def flagOf (c : Pattern) (b : Byte) : Bool :=
  decide (b = c.p1 ∨ b = c.p2 ∨ b = c.ia ∨ b = c.ib)

/-- `rec(i)` (R120). -/
def recognizedAt (c : Pattern) (bytes : List Byte) (i : Nat) : Bool :=
  decide (byteBefore bytes i 2 = c.p1 ∧ byteBefore bytes i 1 = c.p2 ∧
    (c.any3 = true ∨ byteBefore bytes i 0 = c.ia ∨ byteBefore bytes i 0 = c.ib))

/-- `bits` (R120): `byte[i] & 1` for the recognized `i` in increasing order. -/
def runBits (c : Pattern) (bytes : List Byte) : List Bool :=
  ((List.range bytes.length).filter (recognizedAt c bytes)).map
    fun i => decide ((byteBefore bytes i 0).toNat % 2 = 1)

/-- `rb[j]` (R120) of a bit sequence, as the sum the rule writes. -/
def packedByte (bits : List Bool) (j : Nat) : Byte :=
  let x := fun t => (bits.getD (8 * j + t) false).toNat
  BitVec.ofNat 8 (128 * x 0 + 64 * x 1 + 32 * x 2 + 16 * x 3 + 8 * x 4 + 4 * x 5 + 2 * x 6 + x 7)

/-- `rb` (R120): floor(B / 8) bytes; the bits above the last whole group are dropped. -/
def packedBytes (bits : List Bool) : List Byte :=
  (List.range (bits.length / 8)).map (packedByte bits)

/-- `cand[k]` (R120). -/
def candidate (rb : List Byte) (k : Nat) : List Byte := rb.map (· ^^^ BitVec.ofNat 8 k)

/-- The result of `decode(cfg, byte)` (R120). -/
structure Decoded where
  windows : List (Byte × Byte × Byte)
  flags : List Bool
  bits : List Bool
  rb : List Byte
  candidates : List (List Byte)
deriving DecidableEq, Repr

/-- `decode(cfg, byte)` (R120), total. -/
def decodeStream (c : Pattern) (bytes : List Byte) : Decoded where
  windows := (List.range bytes.length).map (windowAt bytes)
  flags := bytes.map (flagOf c)
  bits := runBits c bytes
  rb := packedBytes (runBits c bytes)
  candidates := (List.range 256).map (candidate (packedBytes (runBits c bytes)))

/-- The TRACE records of a stream (R121). -/
def traceLog (c : Pattern) (bytes : List Byte) : List Record :=
  bytes.map fun b => .trace b (flagOf c b)

/-- The BIT records of a bit sequence (R121). -/
def bitLog (bits : List Bool) : List Record := bits.map fun x => .bit (BitVec.ofBool x)

/-- The RBYTE records of a byte sequence (R121). -/
def rbyteLog (rb : List Byte) : List Record := rb.map .rbyte

/-- The group of key `k`: its header, then the candidate bytes (R121). -/
def keyGroup (rb : List Byte) (k : Nat) : List Record :=
  .keyrec (BitVec.ofNat 8 k) :: (candidate rb k).map .cand

/-- The groups of the keys below `n`, ascending (R121). -/
def keyLog (rb : List Byte) (n : Nat) : List Record := (List.range n).flatMap (keyGroup rb)

/-- Whether a record is a REG record. -/
def isRegRecord : Record → Bool
  | .trace _ _ => false
  | .bit _ => false
  | .rbyte _ => false
  | .keyrec _ => false
  | .cand _ => false
  | .done => false
  | .reg _ _ => true
  | .fault _ => false

/-- An OUT log with its REG records left out (R121). -/
def withoutReg (log : List Record) : List Record := log.filter fun r => !isRegRecord r

/-- The OUT log of a plain run that fits the accumulator, REG records left out (R121). -/
def runLog (c : Pattern) (bytes : List Byte) : List Record :=
  let d := decodeStream c bytes
  traceLog c bytes ++ bitLog d.bits ++ rbyteLog d.rb ++ keyLog d.rb 256 ++ [.done]

/-- The sequencer steps after END for `b` bits (R123): `(B + 1) + (N + 1) + 256 * (N + 2)`. -/
def sequencerSteps (b : Nat) : Nat := (b + 1) + (b / 8 + 1) + 256 * (b / 8 + 2)

end Sys2Proof.Machine
end

