-- ==== Sys2Proof/Safety.lean ====
section
/-! DEFINITION. What claims about runs are stated in: a complete run, the invariants of 10_state.md
R26, and what the OUT log holds at every point of a run (45_whole_run.md R121). -/

namespace Sys2Proof.Machine

/-- "A run is complete exactly when PHASE = DONE" (00_scope.md R5); a state in FAULT never is
(60_exceptions.md R133). -/
def State.Complete (s : State) : Prop := s.phase = .done

/-- PHASE is FAULT and was entered from `p` (10_state.md R16). -/
def State.faultedFrom (s : State) (p : Phase) : Prop := s.phase = .fault ∧ s.fphase = p

/-- The invariants of 10_state.md R26 that speak of one state, with the ranges R16, R17, R18 and R19
give FPHASE, BADH, BADL, KEY and IDX. Items (d) and (h), and the second half of (e), are about a step
and are statements of their own. -/
structure State.Inv (s : State) : Prop where
  /-- R26 (a): `BITCNT <= ACC_CAP`. -/
  bitCnt_le : withinCap s.config.accCap s.bitCnt = true
  /-- R26 (b): `BYTECNT <= floor(BITCNT / 8)`. -/
  byteCnt_le : s.byteCnt ≤ s.bitCnt / 8
  /-- R26 (c): where BYTECNT may exceed 0. -/
  bytes_phase : 0 < s.byteCnt →
    s.phase = .pack ∨ s.phase = .xorh ∨ s.phase = .xorb ∨ s.phase = .done ∨ s.faultedFrom .done
  /-- R26 (e): all whole groups are packed from XORH on. -/
  packed : s.phase = .xorh ∨ s.phase = .xorb ∨ s.phase = .done ∨ s.faultedFrom .done →
    s.byteCnt = s.bitCnt / 8
  /-- R26 (f): IDLE has an empty accumulator and the seed window. -/
  idle_fresh : s.phase = .idle → s.bitCnt = 0 ∧ s.w0 = 0x00 ∧ s.w1 = 0x00 ∧ s.w2 = 0x00
  /-- R26 (g): `CAUSE.CODE != 0` exactly when `PHASE = FAULT`. -/
  code_iff : s.code ≠ none ↔ s.phase = .fault
  /-- R19: `IDX <= BITCNT` in DUMP. -/
  idx_dump : s.phase = .dump → s.idx ≤ s.bitCnt
  /-- R19: `IDX <= BYTECNT` in XORB. -/
  idx_xorb : s.phase = .xorb → s.idx ≤ s.byteCnt
  /-- R18, 43_xor_key_iterator.md R103: in DONE, KEY is 0xFF and IDX is BYTECNT. -/
  done_key : s.phase = .done → s.key = 0xFF ∧ s.idx = s.byteCnt
  /-- R16: a fault is raised in IDLE, SCAN or DONE only. -/
  fault_phase : s.phase = .fault → s.fphase = .idle ∨ s.fphase = .scan ∨ s.fphase = .done
  /-- R16, R17: without a fault the fault record holds its reset values. -/
  no_fault_record : s.code = none → s.fphase = .idle ∧ s.badh = 0x00 ∧ s.badl = 0x00

/-- The byte of a TRACE record. -/
def tracedByte : Record → Option Byte
  | .trace b _ => some b
  | .bit _ => none
  | .rbyte _ => none
  | .keyrec _ => none
  | .cand _ => none
  | .done => none
  | .reg _ _ => none
  | .fault _ => none

/-- The stream so far: the `b` operands of the executed PUSH commands of the run, in order, as the
TRACE records carry them (41_marker_scanner.md R86). -/
def State.traced (s : State) : List Byte := s.out.filterMap tracedByte

/-- A record of the data path: neither a REG record, which R121 leaves out, nor the FAULT record. -/
def isDataRecord : Record → Bool
  | .trace _ _ => true
  | .bit _ => true
  | .rbyte _ => true
  | .keyrec _ => true
  | .cand _ => true
  | .done => true
  | .reg _ _ => false
  | .fault _ => false

/-- How far the run got: PHASE, or in FAULT the phase in which the fault was raised. -/
def State.stage (s : State) : Phase := if s.phase = .fault then s.fphase else s.phase

/-- The data records a run has emitted when it stands at this stage, loop index, byte count and key:
a prefix of the OUT log of R121 for the stream so far. -/
def State.expectedLog (s : State) : List Record :=
  let c := s.pattern
  let bits := runBits c s.traced
  let rb := packedBytes bits
  let packedLog := bitLog bits ++ rbyteLog rb
  traceLog c s.traced ++
    match s.stage with
    | .idle => []
    | .scan => []
    | .dump => bitLog (bits.take s.idx)
    | .pack => bitLog bits ++ rbyteLog (rb.take s.byteCnt)
    | .xorh => packedLog ++ keyLog rb s.key.toNat
    | .xorb => packedLog ++ keyLog rb s.key.toNat ++ (keyGroup rb s.key.toNat).take (s.idx + 1)
    | .done => packedLog ++ keyLog rb 256 ++ [.done]
    | .fault => []

/-- The data of a run agrees with the decode function of 45_whole_run.md R120 applied to the stream so
far, and the OUT log is what R121 gives for it. -/
structure State.LogInv (s : State) : Prop where
  /-- No byte is streamed in IDLE (10_state.md R20). -/
  idle_untraced : s.phase = .idle → s.traced = []
  /-- ACC holds `bits` (R122). -/
  acc_bits : s.acc = runBits s.pattern s.traced
  /-- RB holds the first BYTECNT bytes of `rb` (R122). -/
  rb_bytes : s.rb = (packedBytes s.acc).take s.byteCnt
  /-- The window is the window of the last byte (41_marker_scanner.md R86). -/
  window : (s.w0, s.w1, s.w2) = lastWindow s.traced
  /-- The data records of the OUT log (R121). -/
  log : s.out.filter isDataRecord = s.expectedLog

/-- Change the next state of an outcome, leaving a stop as it is: for claims that compare two runs. -/
def mapNext (f : State → State) : Result → Result
  | .next t => .next (f t)
  | .fault r => .fault r
  | .refused r => .refused r

/-- The record kinds an operation may emit: the "emitted by" column of 30_encoding.md R69. The FAULT
record (15) is fault entry's; NOP cannot fault, since its one illegal form is no NOP. -/
def emittedKinds : Instr → List Nat
  | .nop => []
  | .push _ => [1, 15]
  | .endStream _ => [15]
  | .wrc _ _ => [15]
  | .rdr _ => [7, 15]
  | .dumpb => [2]
  | .dumpx => []
  | .packb => [3]
  | .packx => []
  | .keyh => [4]
  | .xorb => [5]
  | .keyn => []
  | .fin => [6]

/-- `s` with IA and IB exchanged (10_state.md R12). -/
def State.swapIndicators (s : State) : State := { s with ia := s.ib, ib := s.ia }

/-- The eight bits of a byte, most significant first (42_accumulator_packer.md R96). -/
def byteBits (v : Byte) : List Bool := (List.range 8).map fun t => v.getLsbD (7 - t)

/-- A state in which a run may start: IDLE with nothing streamed or emitted, and no reset to come. -/
def State.Fresh (s : State) : Prop :=
  s.phase = .idle ∧ s.acc = [] ∧ s.rb = [] ∧ s.w0 = 0x00 ∧ s.w1 = 0x00 ∧ s.w2 = 0x00 ∧
    s.out = [] ∧ s.resets = []

end Sys2Proof.Machine
end

