-- ==== Sys2Proof/Certificates/Slice0/Obligations.lean ====
section
/-! DEFINITION. The statements for the provers. Each docstring names the rule or section of spec/ it
formalises; where a clause is the model's own choice it names the log entry. -/

open Sys2Proof Sys2Proof.Machine

/-! ## Reset -/

/-- 70_reset_and_hazards.md R151: the values a reset event leaves; the last four clauses are the
model's own fields (OUT restarts empty, R155; parameter and host inputs, log 1, 2, 3). -/
def Obligations.ResetStateHoldsSpecValues : Prop :=
  let s := State.reset
  (s.w0 = 0x00 ∧ s.w1 = 0x00 ∧ s.w2 = 0x00) ∧
  (s.p1 = 0xE2 ∧ s.p2 = 0x80 ∧ s.ia = 0x8C ∧ s.ib = 0x8D ∧ s.any3 = false) ∧
  (s.phase = .idle ∧ s.srcFail = false ∧ s.code = none ∧ phaseBits s.fphase = 0) ∧
  (s.badh = 0x00 ∧ s.badl = 0x00 ∧ s.key = 0x00) ∧
  (s.bitCnt = 0 ∧ s.byteCnt = 0 ∧ s.idx = 0) ∧
  (s.out = [] ∧ s.config.accCap = none ∧ s.cmd = [] ∧ s.resets = [])

/-- 70_reset_and_hazards.md R150, R151, R154, R155: a reset event, in any state, writes every register
and counter as R151 lists, emits nothing, consumes no command word, and restarts the OUT log. The model's
own: the event falls where `resets` says and its entry leaves the list (log 3), the parameter stays
(log 1), and both memories become empty sequences, where R151 writes no contents (log 9). -/
def Obligations.ResetEventWritesResetValues : Prop :=
  ∀ (s : State) (rest : List Nat), s.resets = 0 :: rest →
    step s = .next { s with
      w0 := 0x00, w1 := 0x00, w2 := 0x00
      p1 := 0xE2, p2 := 0x80, ia := 0x8C, ib := 0x8D, any3 := false
      phase := .idle, srcFail := false
      code := none, fphase := .idle, badh := 0x00, badl := 0x00
      key := 0x00, idx := 0, acc := [], rb := []
      resets := rest, out := [] }

/-! ## The step -/

/-- A step runs the decoded command: 00_scope.md R4, 30_encoding.md R60, R64. The word leaves the port;
the reset counter advances (log 3). -/
def Obligations.StepRunsDecodedCommand : Prop :=
  ∀ (s : State) (w : Word) (rest : List Word) (i : Instr),
    s.resets.head? ≠ some 0 → isBusy s.phase = false → s.cmd = w :: rest → decodeCommand w = .ok i →
      step s = exec i { s with cmd := rest, resets := s.tickReset.resets }

/-- A step runs the selected sequencer operation: 30_encoding.md R66. The reset counter advances
(log 3). -/
def Obligations.StepRunsSelectedOperation : Prop :=
  ∀ (s : State) (i : Instr),
    s.resets.head? ≠ some 0 → decodeSelect s.select = some i →
      step s = exec i { s with resets := s.tickReset.resets }

/-- 60_exceptions.md R141: with no command presented the block waits, keeping all its state. That
waiting is a step of the model is its own choice (log 2), and so is that this step counts toward the
next reset event (log 3). -/
def Obligations.StepWaitsWithoutCommand : Prop :=
  ∀ s : State, s.resets.head? ≠ some 0 → isBusy s.phase = false → s.cmd = [] →
    step s = .next { s with resets := s.tickReset.resets }

/-- 30_encoding.md R63: a reserved opcode, a non-zero must-be-zero field, a reserved register index or
non-zero reserved bits of CTL, accepted in IDLE, SCAN or DONE, takes the fault ILLOP or ILLFLD; what
fault entry writes is 60_exceptions.md R133. The model's own: the word leaves the list `cmd` (log 2) and
the reset counter advances (log 3). -/
def Obligations.IllegalWordTakesFault : Prop :=
  ∀ (s : State) (w : Word) (rest : List Word),
    s.resets.head? ≠ some 0 → (s.phase = .idle ∨ s.phase = .scan ∨ s.phase = .done) →
    s.cmd = w :: rest →
      let entered := fun c : FaultCode => Host.Outcome.next (σ := State) (φ := Machine.Fault)
        (ρ := Refusal) { s with
          cmd := rest, resets := s.tickReset.resets
          code := some c, fphase := s.phase, badh := BitVec.ofNat 8 (w.toNat / 256)
          badl := BitVec.ofNat 8 w.toNat, phase := .fault, out := s.out ++ [.fault c] }
      (0x5000 ≤ w.toNat → step s = entered .illop) ∧
      (0x0001 ≤ w.toNat ∧ w.toNat ≤ 0x0FFF → step s = entered .illfld) ∧
      (0x1100 ≤ w.toNat ∧ w.toNat ≤ 0x1FFF → step s = entered .illfld) ∧
      (0x2002 ≤ w.toNat ∧ w.toNat ≤ 0x2FFF → step s = entered .illfld) ∧
      (0x4000 ≤ w.toNat ∧ w.toNat ≤ 0x4FFF ∧ w.toNat % 256 ≠ 0 → step s = entered .illfld) ∧
      (0x3D00 ≤ w.toNat ∧ w.toNat ≤ 0x3FFF → step s = entered .illfld) ∧
      (0x4D00 ≤ w.toNat ∧ w.toNat ≤ 0x4FFF → step s = entered .illfld) ∧
      (0x3402 ≤ w.toNat ∧ w.toNat ≤ 0x34FF → step s = entered .illfld)

/-- 60_exceptions.md R134: what each accepted word does in phase FAULT. The model's own: the word
leaves the list `cmd` (log 2) and the reset counter advances (log 3). -/
def Obligations.FaultPhaseTreatsWords : Prop :=
  ∀ (s : State) (w : Word) (rest : List Word),
    s.resets.head? ≠ some 0 → s.phase = .fault → s.cmd = w :: rest →
      let t := { s with cmd := rest, resets := s.tickReset.resets }
      let readable := w &&& 0xF0FF = 0x4000 ∧ w.toNat / 256 % 16 ≤ 12
      (w = 0x0000 → step s = .next t) ∧
      (readable → ∃ v, s.readReg (BitVec.ofNat 4 (w.toNat / 256)) = some v ∧
        step s = .next { t with out := s.out ++ [.reg (BitVec.ofNat 4 (w.toNat / 256)) v] }) ∧
      (w ≠ 0x0000 ∧ ¬ readable → step s = .next t)

/-- 60_exceptions.md R134, R135: without a reset, FAULT is kept, and of all the state only the OUT log
(by RDR) and the port change. -/
def Obligations.OnlyResetLeavesFault : Prop :=
  ∀ s t : State, s.resets.head? ≠ some 0 → s.phase = .fault → step s = .next t →
    t = { s with cmd := t.cmd, resets := t.resets, out := t.out }

/-- 60_exceptions.md R140: in a busy phase the words at the port are neither taken nor read. -/
def Obligations.BusyPhasesHoldCommands : Prop :=
  ∀ (s : State) (c : List Word), isBusy s.phase = true → s.resets.head? ≠ some 0 →
    step { s with cmd := c } = mapNext (fun t => { t with cmd := c }) (step s) ∧
    ∃ t, step s = .next t ∧ t.cmd = s.cmd

/-- 30_encoding.md R67 ("deterministic and never stuck"), 20_memory.md R48: every step from every state
answers a next state; no step reads an unwritten location and none meets a stop of the model. -/
def Obligations.StepAlwaysAnswersNext : Prop :=
  ∀ s : State, ∃ t, step s = .next t

/-- 30_encoding.md R66, R67: which operation the sequencer selects. The rows with `more = 0` are read
as R66 writes them, as the negation of the comparison (log 7). -/
def Obligations.SequencerSelectsByTable : Prop :=
  ∀ s : State,
    (decodeSelect s.select = some .dumpb ↔ s.phase = .dump ∧ s.idx < s.acc.length) ∧
    (decodeSelect s.select = some .dumpx ↔ s.phase = .dump ∧ ¬ s.idx < s.acc.length) ∧
    (decodeSelect s.select = some .packb ↔ s.phase = .pack ∧ s.rb.length < s.acc.length / 8) ∧
    (decodeSelect s.select = some .packx ↔ s.phase = .pack ∧ ¬ s.rb.length < s.acc.length / 8) ∧
    (decodeSelect s.select = some .keyh ↔ s.phase = .xorh) ∧
    (decodeSelect s.select = some .xorb ↔ s.phase = .xorb ∧ s.idx < s.rb.length) ∧
    (decodeSelect s.select = some .keyn ↔
      s.phase = .xorb ∧ ¬ s.idx < s.rb.length ∧ s.key ≠ 0xFF) ∧
    (decodeSelect s.select = some .fin ↔
      s.phase = .xorb ∧ ¬ s.idx < s.rb.length ∧ s.key = 0xFF) ∧
    (decodeSelect s.select = none ↔
      s.phase = .idle ∨ s.phase = .scan ∨ s.phase = .done ∨ s.phase = .fault)

/-- The model's stop (log 6): a sequencer operation executed where the select word does not name it has
no meaning in the spec, and the model faults. -/
def Obligations.UnselectedOperationStops : Prop :=
  ∀ (s : State) (i : Instr),
    i ∈ [Instr.dumpb, .dumpx, .packb, .packx, .keyh, .xorb, .keyn, .fin] →
      decodeSelect s.select ≠ some i → exec i s = .fault .notSelected

/-! ## Commands -/

/-- 44_config_and_status.md R110: NOP writes nothing and emits nothing, wherever it is accepted; its word is
the zero word, and a word of opcode 0 with a non-zero field is rejected. In the busy phases, where no
command is accepted, that `exec` answers the unchanged state is the model's (log 8). -/
def Obligations.NopChangesNothing : Prop :=
  (∀ s : State, exec .nop s = .next s) ∧ decodeCommand 0x0000 = .ok .nop ∧
  ∀ w : Word, w.toNat / 4096 = 0 → w.toNat ≠ 0 → decodeCommand w = .error .mustBeZero

/-- 41_marker_scanner.md R80 to R84: PUSH, by phase and by whether the new window is recognized and the
accumulator full; then its encoding. -/
def Obligations.PushFollowsItsRule : Prop :=
  (∀ (s : State) (b : Byte),
    let recognized := s.w1 = s.p1 ∧ s.w2 = s.p2 ∧ (s.any3 = true ∨ b = s.ia ∨ b = s.ib)
    let full := s.config.accCap = some s.acc.length
    let flag := decide (b = s.p1 ∨ b = s.p2 ∨ b = s.ia ∨ b = s.ib)
    let faulted := fun c : FaultCode => Host.Outcome.next (σ := State) (φ := Machine.Fault)
      (ρ := Refusal) { s with
        code := some c, fphase := s.phase, badh := 0x10, badl := b, phase := .fault
        out := s.out ++ [.fault c] }
    ((s.phase = .idle ∨ s.phase = .scan) ∧ recognized ∧ ¬ full →
      exec (.push b) s = .next { s with
        w0 := s.w1, w1 := s.w2, w2 := b
        acc := s.acc ++ [decide (b.toNat % 2 = 1)]
        phase := .scan, out := s.out ++ [.trace b flag] }) ∧
    ((s.phase = .idle ∨ s.phase = .scan) ∧ ¬ recognized →
      exec (.push b) s = .next { s with
        w0 := s.w1, w1 := s.w2, w2 := b
        phase := .scan, out := s.out ++ [.trace b flag] }) ∧
    ((s.phase = .idle ∨ s.phase = .scan) ∧ recognized ∧ full →
      exec (.push b) s = faulted .accovf) ∧
    (s.phase = .done → exec (.push b) s = faulted .seq) ∧
    (s.phase = .fault → exec (.push b) s = .next s)) ∧
  (∀ b : Byte, decodeCommand (BitVec.ofNat 16 (0x1000 + b.toNat)) = .ok (.push b)) ∧
  ∀ w : Word, w.toNat / 4096 = 1 → w.toNat / 256 ≠ 16 → decodeCommand w = .error .mustBeZero

/-- 41_marker_scanner.md R85: END by phase, and its encoding. -/
def Obligations.EndFollowsItsRule : Prop :=
  (∀ (s : State) (f : Bool),
    (s.phase = .idle ∨ s.phase = .scan →
      exec (.endStream f) s = .next { s with srcFail := f, idx := 0, phase := .dump }) ∧
    (s.phase = .done → exec (.endStream f) s = .next { s with
      code := some .seq, fphase := .done, badh := 0x20, badl := if f then 0x01 else 0x00
      phase := .fault, out := s.out ++ [.fault .seq] }) ∧
    (s.phase = .fault → exec (.endStream f) s = .next s)) ∧
  (decodeCommand 0x2000 = .ok (.endStream false) ∧
    decodeCommand 0x2001 = .ok (.endStream true)) ∧
  ∀ w : Word, w.toNat / 4096 = 2 → w.toNat / 2 ≠ 0x1000 → decodeCommand w = .error .mustBeZero

/-- 44_config_and_status.md R111: WRC in IDLE to each writable register; its faults, whose clauses
exclude each other, in the order of the rule; discarded in FAULT; its encoding. -/
def Obligations.WrcFollowsItsRule : Prop :=
  (∀ (s : State) (v : Byte), s.phase = .idle →
    exec (.wrc 0 v) s = .next { s with p1 := v } ∧
    exec (.wrc 1 v) s = .next { s with p2 := v } ∧
    exec (.wrc 2 v) s = .next { s with ia := v } ∧
    exec (.wrc 3 v) s = .next { s with ib := v } ∧
    (v = 0x00 → exec (.wrc 4 v) s = .next { s with any3 := false }) ∧
    (v = 0x01 → exec (.wrc 4 v) s = .next { s with any3 := true })) ∧
  (∀ (s : State) (r : RegIndex) (v : Byte),
    s.phase = .idle ∨ s.phase = .scan ∨ s.phase = .done →
      let faulted := fun c : FaultCode => Host.Outcome.next (σ := State) (φ := Machine.Fault)
        (ρ := Refusal) { s with
          code := some c, fphase := s.phase, badh := BitVec.ofNat 8 (0x30 + r.toNat), badl := v
          phase := .fault, out := s.out ++ [.fault c] }
      (13 ≤ r.toNat → exec (.wrc r v) s = faulted .illfld) ∧
      (r = 4 ∧ 2 ≤ v.toNat → exec (.wrc r v) s = faulted .illfld) ∧
      (5 ≤ r.toNat ∧ r.toNat ≤ 12 → exec (.wrc r v) s = faulted .roreg) ∧
      ((r.toNat ≤ 3 ∨ r = 4 ∧ v.toNat ≤ 1) ∧ s.phase ≠ .idle →
        exec (.wrc r v) s = faulted .cfglock)) ∧
  (∀ (s : State) (r : RegIndex) (v : Byte), s.phase = .fault → exec (.wrc r v) s = .next s) ∧
  ∀ (r : RegIndex) (v : Byte),
    decodeCommand (BitVec.ofNat 16 (0x3000 + 256 * r.toNat + v.toNat)) = .ok (.wrc r v)

/-- 44_config_and_status.md R112 with the "RDR returns" column of 10_state.md R24: RDR of the thirteen
registers wherever a command is accepted; a reserved index faults, and is discarded in FAULT; its
encoding. -/
def Obligations.RdrFollowsItsRule : Prop :=
  (∀ (s : State) (r : RegIndex) (v : Byte), isBusy s.phase = false →
    [s.p1, s.p2, s.ia, s.ib, 0#7 ++ BitVec.ofBool s.any3,
      0#4 ++ BitVec.ofBool s.srcFail ++ phaseBits s.phase,
      0#1 ++ phaseBits s.fphase ++ codeBits s.code,
      s.badh, s.badl, s.w0, s.w1, s.w2, s.key][r.toNat]? = some v →
      exec (.rdr r) s = .next { s with out := s.out ++ [.reg r v] }) ∧
  (∀ (s : State) (r : RegIndex), 13 ≤ r.toNat →
    (s.phase = .idle ∨ s.phase = .scan ∨ s.phase = .done →
      exec (.rdr r) s = .next { s with
        code := some .illfld, fphase := s.phase, badh := BitVec.ofNat 8 (0x40 + r.toNat)
        badl := 0x00, phase := .fault, out := s.out ++ [.fault .illfld] }) ∧
    (s.phase = .fault → exec (.rdr r) s = .next s)) ∧
  (∀ r : RegIndex, decodeCommand (BitVec.ofNat 16 (0x4000 + 256 * r.toNat)) = .ok (.rdr r)) ∧
  ∀ w : Word, w.toNat / 4096 = 4 → w.toNat % 256 ≠ 0 → decodeCommand w = .error .mustBeZero

/-- A command executed in a busy phase is not accepted and has no effect (60_exceptions.md section 2;
that `exec` answers the unchanged state there is the model's, log 8). -/
def Obligations.CommandsHaveNoEffectWhileBusy : Prop :=
  ∀ (s : State) (i : Instr) (w : Word), isBusy s.phase = true → encode i = .cmd16 w →
    exec i s = .next s

/-- 20_memory.md R53, 44_config_and_status.md R111, R112: a configuration write is what the very next
command reads. -/
def Obligations.WrcThenRdrReadsBack : Prop :=
  ∀ (s : State) (r : RegIndex) (v : Byte), s.phase = .idle →
    (r.toNat ≤ 3 ∨ r = 4 ∧ v.toNat ≤ 1) →
      ∃ t, exec (.wrc r v) s = .next t ∧
        exec (.rdr r) t = .next { t with out := s.out ++ [.reg r v] }

/-! ## Sequencer operations -/

/-- 42_accumulator_packer.md R90: where it is selected, and its effect. -/
def Obligations.DumpbEmitsBit : Prop :=
  ∀ (s : State) (x : Bool), s.phase = .dump → s.acc[s.idx]? = some x →
    decodeSelect s.select = some .dumpb ∧ exec .dumpb s = .next { s with
      idx := s.idx + 1, out := s.out ++ [.bit (BitVec.ofBool x)] }

/-- 42_accumulator_packer.md R91: where it is selected, and its effect. -/
def Obligations.DumpxEntersPack : Prop :=
  ∀ s : State, s.phase = .dump → s.idx = s.acc.length →
    decodeSelect s.select = some .dumpx ∧ exec .dumpx s = .next { s with idx := 0, phase := .pack }

/-- 42_accumulator_packer.md R92, R93: the packed byte is the sum of R92 (`packedByte`, as in
45_whole_run.md R120), stored at BYTECNT and emitted. -/
def Obligations.PackbStoresPackedByte : Prop :=
  ∀ s : State, s.phase = .pack → s.rb.length < s.acc.length / 8 →
    decodeSelect s.select = some .packb ∧ exec .packb s = .next { s with
      rb := s.rb ++ [packedByte s.acc s.rb.length]
      out := s.out ++ [.rbyte (packedByte s.acc s.rb.length)] }

/-- 42_accumulator_packer.md R94: where it is selected, and its effect. -/
def Obligations.PackxStartsKeyLoop : Prop :=
  ∀ s : State, s.phase = .pack → s.rb.length = s.acc.length / 8 →
    decodeSelect s.select = some .packx ∧ exec .packx s = .next { s with key := 0x00, phase := .xorh }

/-- 43_xor_key_iterator.md R100: where it is selected, and its effect. -/
def Obligations.KeyhEmitsHeader : Prop :=
  ∀ s : State, s.phase = .xorh →
    decodeSelect s.select = some .keyh ∧ exec .keyh s = .next { s with
      idx := 0, phase := .xorb, out := s.out ++ [.keyrec s.key] }

/-- 43_xor_key_iterator.md R101: where it is selected, and its effect. -/
def Obligations.XorbEmitsCandidate : Prop :=
  ∀ (s : State) (v : Byte), s.phase = .xorb → s.rb[s.idx]? = some v →
    decodeSelect s.select = some .xorb ∧ exec .xorb s = .next { s with
      idx := s.idx + 1, out := s.out ++ [.cand (BitVec.ofNat 8 (v.toNat ^^^ s.key.toNat))] }

/-- 43_xor_key_iterator.md R102: no wrap, the new key is `KEY + 1` as a natural number. -/
def Obligations.KeynAdvancesKey : Prop :=
  ∀ s : State, s.phase = .xorb → s.idx = s.rb.length → s.key ≠ 0xFF →
    decodeSelect s.select = some .keyn ∧ s.key.toNat + 1 < 256 ∧
    exec .keyn s = .next { s with key := BitVec.ofNat 8 (s.key.toNat + 1), phase := .xorh }

/-- 43_xor_key_iterator.md R103: where it is selected, and its effect. -/
def Obligations.FinCompletesRun : Prop :=
  ∀ s : State, s.phase = .xorb → s.idx = s.rb.length → s.key = 0xFF →
    decodeSelect s.select = some .fin ∧ exec .fin s = .next { s with phase := .done, out := s.out ++ [.done] }

/-! ## Frames -/

/-- 60_exceptions.md R133: whatever word faults, legal or not, the step is fault entry for that word;
"Nothing else changes". The model's own: the word leaves the list `cmd` (log 2) and the reset counter
advances (log 3). -/
def Obligations.FaultEntryOfStep : Prop :=
  ∀ s t : State, s.resets.head? ≠ some 0 → s.phase ≠ .fault → step s = .next t →
    t.phase = .fault →
      ∃ (w : Word) (rest : List Word) (c : FaultCode), s.cmd = w :: rest ∧
        t = { s with
          cmd := rest, resets := s.tickReset.resets
          code := some c, fphase := s.phase, badh := BitVec.ofNat 8 (w.toNat / 256)
          badl := BitVec.ofNat 8 w.toNat, phase := .fault, out := s.out ++ [.fault c] }

/-- Frame of every command that faults (60_exceptions.md section 2): fault entry for its own word, and
everything else unchanged. R133 records the accepted word; that a command records the word of its own
encoding is the model's (log 10). -/
def Obligations.FaultEntryOfCommand : Prop :=
  ∀ (i : Instr) (s t : State), exec i s = .next t → s.phase ≠ .fault → t.phase = .fault →
    ∃ (c : FaultCode) (w : Word), encode i = .cmd16 w ∧
      t = { s with
        code := some c, fphase := s.phase, badh := BitVec.ofNat 8 (w.toNat / 256)
        badl := BitVec.ofNat 8 w.toNat, phase := .fault, out := s.out ++ [.fault c] }

/-- Frame of NOP and RDR where no fault is raised (44_config_and_status.md R110, R112). -/
def Obligations.FrameOfNopAndRdr : Prop :=
  ∀ (i : Instr) (s t : State), (i = .nop ∨ ∃ r, i = .rdr r) → exec i s = .next t →
    (t.phase = .fault → s.phase = .fault) → t = { s with out := t.out }

/-- Frame of PUSH where no fault is raised: the stored bit is at address BITCNT (20_memory.md R41);
every other address of ACC, and all of RB, read as before. -/
def Obligations.FrameOfPush : Prop :=
  ∀ (b : Byte) (s t : State), exec (.push b) s = .next t → (t.phase = .fault → s.phase = .fault) →
    t = { s with w0 := t.w0, w1 := t.w1, w2 := t.w2, phase := t.phase, acc := t.acc, out := t.out } ∧
    (∀ a, a ≠ s.bitCnt → t.readAcc a 1 = s.readAcc a 1) ∧ (∀ j, t.readRb j = s.readRb j)

/-- Frame of END where no fault is raised (41_marker_scanner.md R85): it changes SRCFAIL, IDX and PHASE;
no address of either memory. -/
def Obligations.FrameOfEnd : Prop :=
  ∀ (f : Bool) (s t : State), exec (.endStream f) s = .next t →
    (t.phase = .fault → s.phase = .fault) →
    t = { s with srcFail := t.srcFail, idx := t.idx, phase := t.phase } ∧
    (∀ a, t.readAcc a 1 = s.readAcc a 1) ∧ (∀ j, t.readRb j = s.readRb j)

/-- Frame of WRC where no fault is raised (44_config_and_status.md R111): at most the addressed
register; no address of either memory. -/
def Obligations.FrameOfWrc : Prop :=
  ∀ (r : RegIndex) (v : Byte) (s t : State), exec (.wrc r v) s = .next t →
    (t.phase = .fault → s.phase = .fault) →
    t = { s with p1 := t.p1, p2 := t.p2, ia := t.ia, ib := t.ib, any3 := t.any3 } ∧
    (r ≠ 0 → t.p1 = s.p1) ∧ (r ≠ 1 → t.p2 = s.p2) ∧ (r ≠ 2 → t.ia = s.ia) ∧
    (r ≠ 3 → t.ib = s.ib) ∧ (r ≠ 4 → t.any3 = s.any3) ∧
    (∀ a, t.readAcc a 1 = s.readAcc a 1) ∧ (∀ j, t.readRb j = s.readRb j)

/-- Frame of the sequencer operations that store nothing (42_accumulator_packer.md R90, R91, R94;
43_xor_key_iterator.md R100 to R103): at most IDX, KEY, PHASE and the OUT log change, and of these only
the ones the operation's rule writes. -/
def Obligations.FrameOfNonStoringOperations : Prop :=
  ∀ (i : Instr) (s t : State), i ∈ [Instr.dumpb, .dumpx, .packx, .keyh, .xorb, .keyn, .fin] →
    exec i s = .next t →
    t = { s with idx := t.idx, key := t.key, phase := t.phase, out := t.out } ∧
    (i ∈ [Instr.packx, .keyn, .fin] → t.idx = s.idx) ∧
    (i ∈ [Instr.dumpb, .dumpx, .keyh, .xorb, .fin] → t.key = s.key) ∧
    (i ∈ [Instr.dumpb, .xorb] → t.phase = s.phase) ∧
    (i ∈ [Instr.dumpx, .packx, .keyn] → t.out = s.out) ∧
    (∀ a, t.readAcc a 1 = s.readAcc a 1) ∧ (∀ j, t.readRb j = s.readRb j)

/-- Frame of PACKB (42_accumulator_packer.md R93): the stored byte is at address BYTECNT of RB; every
other address of RB, and all of ACC, read as before. -/
def Obligations.FrameOfPackb : Prop :=
  ∀ s t : State, exec .packb s = .next t →
    t = { s with rb := t.rb, out := t.out } ∧
    (∀ a, t.readAcc a 1 = s.readAcc a 1) ∧ (∀ j, j ≠ s.byteCnt → t.readRb j = s.readRb j)

/-! ## Encodings -/

/-- 30_encoding.md R61, R62, R66, R67, R70: the encoder and the decoder agree on every operation, every
operand at every value (the ill-formed WRC and RDR too, which decode and then fault). -/
def Obligations.DecodeOfEncodeIsInstr : Prop :=
  ∀ i : Instr, decode (encode i) = .ok i

/-- 30_encoding.md R64: a command word that decodes to an operation is that operation's one encoding, so
fault entry records the accepted word. -/
def Obligations.CommandWordHasOneMeaning : Prop :=
  ∀ (w : Word) (i : Instr), decodeCommand w = .ok i → encode i = .cmd16 w

/-- 30_encoding.md R61: the decoder follows the match and mask table, with the operands of R62; a word of
reserved opcode is ILLOP's, every other word that matches no row is ILLFLD's; "The five patterns are
disjoint". -/
def Obligations.DecoderFollowsOpcodeMap : Prop :=
  ∀ w : Word,
    (decodeCommand w = .ok .nop ↔ w &&& 0xFFFF = 0x0000) ∧
    (decodeCommand w = .ok (.push (BitVec.ofNat 8 w.toNat)) ↔ w &&& 0xFF00 = 0x1000) ∧
    (decodeCommand w = .ok (.endStream (decide (w.toNat % 2 = 1))) ↔ w &&& 0xFFFE = 0x2000) ∧
    (decodeCommand w = .ok (.wrc (BitVec.ofNat 4 (w.toNat / 256)) (BitVec.ofNat 8 w.toNat)) ↔
      w &&& 0xF000 = 0x3000) ∧
    (decodeCommand w = .ok (.rdr (BitVec.ofNat 4 (w.toNat / 256))) ↔ w &&& 0xF0FF = 0x4000) ∧
    (decodeCommand w = .error .reservedOpcode ↔ 5 ≤ w.toNat / 4096) ∧
    (decodeCommand w = .error .mustBeZero ↔
      w.toNat / 4096 < 5 ∧ ∀ row ∈ commandRows, row.hits w = false) ∧
    ∀ a ∈ commandRows, ∀ b ∈ commandRows, a.hits w = true → b.hits w = true → a = b

/-- A few words written from 30_encoding.md R61, R67 decode to what they stand for (95_test_vectors.md
V14). -/
def Obligations.SpecWordsDecode : Prop :=
  decodeCommand 0x0000 = .ok .nop ∧ decodeCommand 0x10E2 = .ok (.push 0xE2) ∧
  decodeCommand 0x2001 = .ok (.endStream true) ∧ decodeCommand 0x328B = .ok (.wrc 2 0x8B) ∧
  decodeCommand 0x4500 = .ok (.rdr 5) ∧ decodeCommand 0xF000 = .error .reservedOpcode ∧
  decodeCommand 0x1F41 = .error .mustBeZero ∧ decodeSelect 0b01010 = some .dumpb ∧
  decodeSelect 0b10101 = some .fin ∧ decodeSelect 0b00001 = none

/-- 30_encoding.md R69: the value of every record, the kinds that are never emitted, and which operation
emits which record. -/
def Obligations.RecordWordsOfSpec : Prop :=
  (∀ (b : Byte) (m : Bool),
    (recordWord (.trace b m)).toNat = 0x1000 + 256 * m.toNat + b.toNat) ∧
  (∀ x : BitVec 1, (recordWord (.bit x)).toNat = 0x2000 + x.toNat) ∧
  (∀ v : Byte, (recordWord (.rbyte v)).toNat = 0x3000 + v.toNat) ∧
  (∀ k : Byte, (recordWord (.keyrec k)).toNat = 0x4000 + k.toNat) ∧
  (∀ c : Byte, (recordWord (.cand c)).toNat = 0x5000 + c.toNat) ∧
  recordWord .done = 0x6000 ∧
  (∀ (r : RegIndex) (v : Byte),
    (recordWord (.reg r v)).toNat = 0x7000 + 256 * r.toNat + v.toNat) ∧
  (recordWord (.fault .illop) = 0xF100 ∧ recordWord (.fault .illfld) = 0xF200 ∧
    recordWord (.fault .cfglock) = 0xF300 ∧ recordWord (.fault .seq) = 0xF400 ∧
    recordWord (.fault .accovf) = 0xF500 ∧ recordWord (.fault .roreg) = 0xF600) ∧
  (∀ r : Record, (recordWord r).toNat / 4096 ∈ [1, 2, 3, 4, 5, 6, 7, 15]) ∧
  (∀ (i : Instr) (s t : State) (r : Record), exec i s = .next t → t.out = s.out ++ [r] →
    (recordWord r).toNat / 4096 ∈ emittedKinds i)

/-- The OUT port loses nothing: a record's word determines the record (30_encoding.md section 4). -/
def Obligations.RecordWordInjective : Prop :=
  ∀ r q : Record, recordWord r = recordWord q → r = q

/-! ## Invariants and whole-machine rules -/

/-- The invariants of 10_state.md section 10 hold at reset. -/
def Obligations.InvariantHoldsAtReset : Prop :=
  State.reset.Inv ∧ State.reset.LogInv ∧ Memory.wf State.reset = true

/-- 10_state.md section 10: every step from a state that meets the invariants gives one that meets
them. -/
def Obligations.StepKeepsInvariant : Prop :=
  ∀ s t : State, s.Inv → step s = .next t → t.Inv

/-- 45_whole_run.md sections 1 and 2, as an invariant of every run, with any mix of commands and resets:
the memories, the window and the OUT log stay what the decode function gives for the stream so far. -/
def Obligations.StepKeepsLogInvariant : Prop :=
  ∀ s t : State, s.Inv → s.LogInv → step s = .next t → t.LogInv

/-- 00_scope.md section 4 (rule R5): a run is complete "exactly once the DONE record has been emitted"; a
complete run may still fault later. -/
def Obligations.DoneRecordMeansCompletedRun : Prop :=
  ∀ s : State, s.Inv → s.LogInv → (Record.done ∈ s.out ↔ s.Complete ∨ s.faultedFrom .done)

/-- 20_memory.md section 5: the memories stay within ACC_CAP and RB_CAP, from every state in which they
are. -/
def Obligations.StepKeepsMemoryForm : Prop :=
  ∀ s t : State, Memory.wf s = true → step s = .next t → Memory.wf t = true

/-- 10_state.md section 10, items (d), (e), (h): without a reset, ACC is fixed from DUMP on, RB from
XORH on, and the configuration once PHASE has left IDLE. -/
def Obligations.DataLockedByPhase : Prop :=
  ∀ s t : State, s.resets.head? ≠ some 0 → step s = .next t →
    (s.phase ≠ .idle ∧ s.phase ≠ .scan → t.acc = s.acc) ∧
    (s.phase ≠ .pack → t.rb = s.rb) ∧
    (s.phase ≠ .idle → t.pattern = s.pattern)

/-- 45_whole_run.md section 4: without a reset, PHASE changes only as its list says. -/
def Obligations.PhaseChangesOnlyAsListed : Prop :=
  ∀ s t : State, s.resets.head? ≠ some 0 → step s = .next t → t.phase = s.phase ∨
    (s.phase, t.phase) ∈
      [(Phase.idle, Phase.scan), (.idle, .dump), (.scan, .dump), (.dump, .pack), (.pack, .xorh),
        (.xorh, .xorb), (.xorb, .xorh), (.xorb, .done), (.idle, .fault), (.scan, .fault),
        (.done, .fault)]

/-- 00_scope.md R4, R5 and 30_encoding.md R68: an operation appends at most one record and never reads
the log: with any other log before it, it does the same and appends the same. -/
def Obligations.OutLogAppendedNeverRead : Prop :=
  ∀ (i : Instr) (s : State) (o : List Record),
    exec i { s with out := o ++ s.out } = mapNext (fun t => { t with out := o ++ t.out }) (exec i s) ∧
    ∀ t, exec i s = .next t → t.out = s.out ∨ ∃ r, t.out = s.out ++ [r]

/-- 10_state.md R23: no operation but RDR of STATUS depends on SRCFAIL. END in IDLE and SCAN writes SRCFAIL,
so its result is the same whatever SRCFAIL was; every other operation, and END in the other phases,
carries the old SRCFAIL through and is otherwise the same. -/
def Obligations.SrcFailReadOnlyByRdr : Prop :=
  ∀ (i : Instr) (s : State) (f : Bool), i ≠ .rdr 5 →
    let writesIt := (∃ g, i = .endStream g) ∧ (s.phase = .idle ∨ s.phase = .scan)
    (writesIt → exec i { s with srcFail := f } = exec i s) ∧
    (¬ writesIt →
      exec i { s with srcFail := f } = mapNext (fun t => { t with srcFail := f }) (exec i s))

/-- 10_state.md R12: IA and IB are interchangeable: exchanging them exchanges nothing else, for every
operation but WRC and the RDR of one of the two. -/
def Obligations.IndicatorsInterchangeable : Prop :=
  ∀ (i : Instr) (s : State), (∀ r v, i ≠ .wrc r v) → i ≠ .rdr 2 → i ≠ .rdr 3 →
    exec i s.swapIndicators = mapNext State.swapIndicators (exec i s)

/-- The parameter is no state (00_scope.md section 5; log 1): no step changes ACC_CAP. -/
def Obligations.ParametersNeverChange : Prop :=
  ∀ s t : State, step s = .next t → t.config = s.config

/-! ## Memory reads and packing -/

/-- 20_memory.md R42: the bit at the lowest address is the most significant; a read that would touch an
unwritten location has no value (R48). -/
def Obligations.AccReadMostSignificantFirst : Prop :=
  ∀ (s : State) (a n : Nat),
    (a + n ≤ s.acc.length → ∃ v, s.readAcc a n = some v ∧
      ∀ t, t < n → v.getLsbD (n - 1 - t) = s.acc.getD (a + t) false) ∧
    (s.acc.length < a + n → s.readAcc a n = none)

/-- 42_accumulator_packer.md section 3, the round-trip law: expanding the bytes of RB gives the first
`8 * BYTECNT` bits of ACC. -/
def Obligations.PackedBytesReproduceAccumulator : Prop :=
  ∀ s : State, s.LogInv → s.rb.flatMap byteBits = s.acc.take (8 * s.byteCnt)

/-! ## Runs of the sequencer and whole runs -/

/-- 42_accumulator_packer.md section 1: from any loop index the dump phase emits the rest of the
accumulator and enters PACK, in one step per bit and one more. -/
def Obligations.DumpPhaseEmitsAccumulator : Prop :=
  ∀ s : State, s.phase = .dump → s.idx ≤ s.acc.length → s.resets = [] →
    Host.Core.run Sys2Proof.core (s.acc.length - s.idx + 1) s = .next { s with
      idx := 0, phase := .pack, out := s.out ++ bitLog (s.acc.drop s.idx) }

/-- 42_accumulator_packer.md sections 2 and 3: the pack phase stores and emits the remaining whole
groups, drops the bits above them, and starts the key loop. -/
def Obligations.PackPhaseEmitsWholeGroups : Prop :=
  ∀ s : State, s.phase = .pack → s.rb.length ≤ s.acc.length / 8 → s.resets = [] →
    Host.Core.run Sys2Proof.core (s.acc.length / 8 - s.rb.length + 1) s = .next { s with
      rb := s.rb ++ (packedBytes s.acc).drop s.rb.length
      key := 0x00, phase := .xorh
      out := s.out ++ rbyteLog ((packedBytes s.acc).drop s.rb.length) }

/-- 43_xor_key_iterator.md section 2: from any key the key loop emits every remaining key's group in
ascending order, then DONE, and stops at key 255. -/
def Obligations.KeyLoopEmitsAllKeys : Prop :=
  ∀ s : State, s.phase = .xorh → s.resets = [] →
    Host.Core.run Sys2Proof.core ((256 - s.key.toNat) * (s.rb.length + 2)) s = .next { s with
      key := 0xFF, idx := s.rb.length, phase := .done
      out := s.out ++ (List.range' s.key.toNat (256 - s.key.toNat)).flatMap (keyGroup s.rb) ++
        [.done] }

/-- 45_whole_run.md sections 1 and 2: a plain run whose bits fit the accumulator completes in exactly the
steps counted there, in the final state given there, and its OUT log with the REG records left out is
that of the decode function. `conf` stands before the first PUSH and `scan` from it on; NOP and RDR may
stand anywhere in both; `rest` is what the host presents after the END, of any form: it is held until
the run is complete. -/
def Obligations.PlainRunEqualsDecodeFunction : Prop :=
  ∀ (s : State) (conf scan : List PlainCommand) (f : Bool) (rest : List Word),
    s.Fresh → s.cmd = (conf ++ scan).map PlainCommand.word ++ wordEnd f :: rest →
    (∀ x ∈ conf ++ scan, x.allowed = true) →
    (∀ x ∈ conf, x.pushed = none) → (∀ x ∈ scan, x.written = none) →
    withinCap s.config.accCap (runBits (s.pattern.configure conf) (streamOf scan)).length = true →
      let c := s.pattern.configure conf
      let d := decodeStream c (streamOf scan)
      let w := lastWindow (streamOf scan)
      ∃ t, Host.Core.run Sys2Proof.core
          (conf.length + scan.length + 1 + sequencerSteps d.bits.length) s = .next t ∧
        t = { s with
          p1 := c.p1, p2 := c.p2, ia := c.ia, ib := c.ib, any3 := c.any3
          cmd := rest, phase := .done, srcFail := f
          w0 := w.1, w1 := w.2.1, w2 := w.2.2
          acc := d.bits, rb := d.rb, key := 0xFF, idx := d.bits.length / 8, out := t.out } ∧
        withoutReg t.out = runLog c (streamOf scan)

/-- 45_whole_run.md section 2, second half: a stream with one recognition too many faults with ACCOVF at
that byte: TRACE records up to it, then the FAULT record, and nothing of the later stages. -/
def Obligations.OverflowingRunFaultsAtByte : Prop :=
  ∀ (s : State) (pre : List Byte) (b : Byte) (rest : List Word),
    s.Fresh → s.cmd = pre.map wordPush ++ wordPush b :: rest →
    s.config.accCap = some (runBits s.pattern pre).length →
    recognizedAt s.pattern (pre ++ [b]) pre.length = true →
      let w := lastWindow pre
      Host.Core.run Sys2Proof.core (pre.length + 1) s = .next { s with
        cmd := rest, w0 := w.1, w1 := w.2.1, w2 := w.2.2, acc := runBits s.pattern pre
        code := some .accovf, fphase := if pre = [] then .idle else .scan
        badh := 0x10, badl := b, phase := .fault
        out := traceLog s.pattern pre ++ [.fault .accovf] }

/-! ## Notation -/

/-- 30_encoding.md R71: the pseudo-commands expand to the words of their lines, in order. -/
def Obligations.PseudoCommandsExpand : Prop :=
  ∀ (bytes : List Byte) (p1 p2 ia ib : Byte) (x : Bool),
    assemble [.stream bytes] = assemble (bytes.map AsmLine.push) ∧
    assemble [.setPat p1 p2 ia ib] =
      assemble [.wrc 0 p1, .wrc 1 p2, .wrc 2 ia, .wrc 3 ib] ∧
    assemble [.any3 x] = assemble [.wrc 4 (if x then 1 else 0)] ∧
    assemble [.endFail] = assemble [.endStream true]
end

