-- ==== Sys2Proof/Laws/State.lean ====
section
/-! SUPPORT. One lemma per field per update of the state, true by rfl, and the values of the codes:
later proofs rewrite with these and never unfold a record update. -/

namespace Sys2Proof.Machine

/-! ## emit -/

@[simp] theorem State.emit_w0 (s : State) (rec : Record) : (s.emit rec).w0 = s.w0 := rfl
@[simp] theorem State.emit_w1 (s : State) (rec : Record) : (s.emit rec).w1 = s.w1 := rfl
@[simp] theorem State.emit_w2 (s : State) (rec : Record) : (s.emit rec).w2 = s.w2 := rfl
@[simp] theorem State.emit_p1 (s : State) (rec : Record) : (s.emit rec).p1 = s.p1 := rfl
@[simp] theorem State.emit_p2 (s : State) (rec : Record) : (s.emit rec).p2 = s.p2 := rfl
@[simp] theorem State.emit_ia (s : State) (rec : Record) : (s.emit rec).ia = s.ia := rfl
@[simp] theorem State.emit_ib (s : State) (rec : Record) : (s.emit rec).ib = s.ib := rfl
@[simp] theorem State.emit_any3 (s : State) (rec : Record) : (s.emit rec).any3 = s.any3 := rfl
@[simp] theorem State.emit_phase (s : State) (rec : Record) : (s.emit rec).phase = s.phase := rfl
@[simp] theorem State.emit_srcFail (s : State) (rec : Record) : (s.emit rec).srcFail = s.srcFail :=
    rfl
@[simp] theorem State.emit_code (s : State) (rec : Record) : (s.emit rec).code = s.code := rfl
@[simp] theorem State.emit_fphase (s : State) (rec : Record) : (s.emit rec).fphase = s.fphase := rfl
@[simp] theorem State.emit_badh (s : State) (rec : Record) : (s.emit rec).badh = s.badh := rfl
@[simp] theorem State.emit_badl (s : State) (rec : Record) : (s.emit rec).badl = s.badl := rfl
@[simp] theorem State.emit_key (s : State) (rec : Record) : (s.emit rec).key = s.key := rfl
@[simp] theorem State.emit_idx (s : State) (rec : Record) : (s.emit rec).idx = s.idx := rfl
@[simp] theorem State.emit_acc (s : State) (rec : Record) : (s.emit rec).acc = s.acc := rfl
@[simp] theorem State.emit_rb (s : State) (rec : Record) : (s.emit rec).rb = s.rb := rfl
@[simp] theorem State.emit_config (s : State) (rec : Record) : (s.emit rec).config = s.config := rfl
@[simp] theorem State.emit_cmd (s : State) (rec : Record) : (s.emit rec).cmd = s.cmd := rfl
@[simp] theorem State.emit_resets (s : State) (rec : Record) : (s.emit rec).resets = s.resets := rfl
@[simp] theorem State.emit_out (s : State) (rec : Record) : (s.emit rec).out = s.out ++ [rec] := rfl

/-! ## setPhase -/

@[simp] theorem State.setPhase_w0 (s : State) (p : Phase) : (s.setPhase p).w0 = s.w0 := rfl
@[simp] theorem State.setPhase_w1 (s : State) (p : Phase) : (s.setPhase p).w1 = s.w1 := rfl
@[simp] theorem State.setPhase_w2 (s : State) (p : Phase) : (s.setPhase p).w2 = s.w2 := rfl
@[simp] theorem State.setPhase_p1 (s : State) (p : Phase) : (s.setPhase p).p1 = s.p1 := rfl
@[simp] theorem State.setPhase_p2 (s : State) (p : Phase) : (s.setPhase p).p2 = s.p2 := rfl
@[simp] theorem State.setPhase_ia (s : State) (p : Phase) : (s.setPhase p).ia = s.ia := rfl
@[simp] theorem State.setPhase_ib (s : State) (p : Phase) : (s.setPhase p).ib = s.ib := rfl
@[simp] theorem State.setPhase_any3 (s : State) (p : Phase) : (s.setPhase p).any3 = s.any3 := rfl
@[simp] theorem State.setPhase_phase (s : State) (p : Phase) : (s.setPhase p).phase = p := rfl
@[simp] theorem State.setPhase_srcFail (s : State) (p : Phase) : (s.setPhase p).srcFail = s.srcFail :=
    rfl
@[simp] theorem State.setPhase_code (s : State) (p : Phase) : (s.setPhase p).code = s.code := rfl
@[simp] theorem State.setPhase_fphase (s : State) (p : Phase) : (s.setPhase p).fphase = s.fphase :=
    rfl
@[simp] theorem State.setPhase_badh (s : State) (p : Phase) : (s.setPhase p).badh = s.badh := rfl
@[simp] theorem State.setPhase_badl (s : State) (p : Phase) : (s.setPhase p).badl = s.badl := rfl
@[simp] theorem State.setPhase_key (s : State) (p : Phase) : (s.setPhase p).key = s.key := rfl
@[simp] theorem State.setPhase_idx (s : State) (p : Phase) : (s.setPhase p).idx = s.idx := rfl
@[simp] theorem State.setPhase_acc (s : State) (p : Phase) : (s.setPhase p).acc = s.acc := rfl
@[simp] theorem State.setPhase_rb (s : State) (p : Phase) : (s.setPhase p).rb = s.rb := rfl
@[simp] theorem State.setPhase_config (s : State) (p : Phase) : (s.setPhase p).config = s.config :=
    rfl
@[simp] theorem State.setPhase_cmd (s : State) (p : Phase) : (s.setPhase p).cmd = s.cmd := rfl
@[simp] theorem State.setPhase_resets (s : State) (p : Phase) : (s.setPhase p).resets = s.resets :=
    rfl
@[simp] theorem State.setPhase_out (s : State) (p : Phase) : (s.setPhase p).out = s.out := rfl

/-! ## setIdx -/

@[simp] theorem State.setIdx_w0 (s : State) (n : Nat) : (s.setIdx n).w0 = s.w0 := rfl
@[simp] theorem State.setIdx_w1 (s : State) (n : Nat) : (s.setIdx n).w1 = s.w1 := rfl
@[simp] theorem State.setIdx_w2 (s : State) (n : Nat) : (s.setIdx n).w2 = s.w2 := rfl
@[simp] theorem State.setIdx_p1 (s : State) (n : Nat) : (s.setIdx n).p1 = s.p1 := rfl
@[simp] theorem State.setIdx_p2 (s : State) (n : Nat) : (s.setIdx n).p2 = s.p2 := rfl
@[simp] theorem State.setIdx_ia (s : State) (n : Nat) : (s.setIdx n).ia = s.ia := rfl
@[simp] theorem State.setIdx_ib (s : State) (n : Nat) : (s.setIdx n).ib = s.ib := rfl
@[simp] theorem State.setIdx_any3 (s : State) (n : Nat) : (s.setIdx n).any3 = s.any3 := rfl
@[simp] theorem State.setIdx_phase (s : State) (n : Nat) : (s.setIdx n).phase = s.phase := rfl
@[simp] theorem State.setIdx_srcFail (s : State) (n : Nat) : (s.setIdx n).srcFail = s.srcFail := rfl
@[simp] theorem State.setIdx_code (s : State) (n : Nat) : (s.setIdx n).code = s.code := rfl
@[simp] theorem State.setIdx_fphase (s : State) (n : Nat) : (s.setIdx n).fphase = s.fphase := rfl
@[simp] theorem State.setIdx_badh (s : State) (n : Nat) : (s.setIdx n).badh = s.badh := rfl
@[simp] theorem State.setIdx_badl (s : State) (n : Nat) : (s.setIdx n).badl = s.badl := rfl
@[simp] theorem State.setIdx_key (s : State) (n : Nat) : (s.setIdx n).key = s.key := rfl
@[simp] theorem State.setIdx_idx (s : State) (n : Nat) : (s.setIdx n).idx = n := rfl
@[simp] theorem State.setIdx_acc (s : State) (n : Nat) : (s.setIdx n).acc = s.acc := rfl
@[simp] theorem State.setIdx_rb (s : State) (n : Nat) : (s.setIdx n).rb = s.rb := rfl
@[simp] theorem State.setIdx_config (s : State) (n : Nat) : (s.setIdx n).config = s.config := rfl
@[simp] theorem State.setIdx_cmd (s : State) (n : Nat) : (s.setIdx n).cmd = s.cmd := rfl
@[simp] theorem State.setIdx_resets (s : State) (n : Nat) : (s.setIdx n).resets = s.resets := rfl
@[simp] theorem State.setIdx_out (s : State) (n : Nat) : (s.setIdx n).out = s.out := rfl

/-! ## setKey -/

@[simp] theorem State.setKey_w0 (s : State) (k : Byte) : (s.setKey k).w0 = s.w0 := rfl
@[simp] theorem State.setKey_w1 (s : State) (k : Byte) : (s.setKey k).w1 = s.w1 := rfl
@[simp] theorem State.setKey_w2 (s : State) (k : Byte) : (s.setKey k).w2 = s.w2 := rfl
@[simp] theorem State.setKey_p1 (s : State) (k : Byte) : (s.setKey k).p1 = s.p1 := rfl
@[simp] theorem State.setKey_p2 (s : State) (k : Byte) : (s.setKey k).p2 = s.p2 := rfl
@[simp] theorem State.setKey_ia (s : State) (k : Byte) : (s.setKey k).ia = s.ia := rfl
@[simp] theorem State.setKey_ib (s : State) (k : Byte) : (s.setKey k).ib = s.ib := rfl
@[simp] theorem State.setKey_any3 (s : State) (k : Byte) : (s.setKey k).any3 = s.any3 := rfl
@[simp] theorem State.setKey_phase (s : State) (k : Byte) : (s.setKey k).phase = s.phase := rfl
@[simp] theorem State.setKey_srcFail (s : State) (k : Byte) : (s.setKey k).srcFail = s.srcFail :=
    rfl
@[simp] theorem State.setKey_code (s : State) (k : Byte) : (s.setKey k).code = s.code := rfl
@[simp] theorem State.setKey_fphase (s : State) (k : Byte) : (s.setKey k).fphase = s.fphase := rfl
@[simp] theorem State.setKey_badh (s : State) (k : Byte) : (s.setKey k).badh = s.badh := rfl
@[simp] theorem State.setKey_badl (s : State) (k : Byte) : (s.setKey k).badl = s.badl := rfl
@[simp] theorem State.setKey_key (s : State) (k : Byte) : (s.setKey k).key = k := rfl
@[simp] theorem State.setKey_idx (s : State) (k : Byte) : (s.setKey k).idx = s.idx := rfl
@[simp] theorem State.setKey_acc (s : State) (k : Byte) : (s.setKey k).acc = s.acc := rfl
@[simp] theorem State.setKey_rb (s : State) (k : Byte) : (s.setKey k).rb = s.rb := rfl
@[simp] theorem State.setKey_config (s : State) (k : Byte) : (s.setKey k).config = s.config := rfl
@[simp] theorem State.setKey_cmd (s : State) (k : Byte) : (s.setKey k).cmd = s.cmd := rfl
@[simp] theorem State.setKey_resets (s : State) (k : Byte) : (s.setKey k).resets = s.resets := rfl
@[simp] theorem State.setKey_out (s : State) (k : Byte) : (s.setKey k).out = s.out := rfl

/-! ## setSrcFail -/

@[simp] theorem State.setSrcFail_w0 (s : State) (f : Bool) : (s.setSrcFail f).w0 = s.w0 := rfl
@[simp] theorem State.setSrcFail_w1 (s : State) (f : Bool) : (s.setSrcFail f).w1 = s.w1 := rfl
@[simp] theorem State.setSrcFail_w2 (s : State) (f : Bool) : (s.setSrcFail f).w2 = s.w2 := rfl
@[simp] theorem State.setSrcFail_p1 (s : State) (f : Bool) : (s.setSrcFail f).p1 = s.p1 := rfl
@[simp] theorem State.setSrcFail_p2 (s : State) (f : Bool) : (s.setSrcFail f).p2 = s.p2 := rfl
@[simp] theorem State.setSrcFail_ia (s : State) (f : Bool) : (s.setSrcFail f).ia = s.ia := rfl
@[simp] theorem State.setSrcFail_ib (s : State) (f : Bool) : (s.setSrcFail f).ib = s.ib := rfl
@[simp] theorem State.setSrcFail_any3 (s : State) (f : Bool) : (s.setSrcFail f).any3 = s.any3 := rfl
@[simp] theorem State.setSrcFail_phase (s : State) (f : Bool) : (s.setSrcFail f).phase = s.phase :=
    rfl
@[simp] theorem State.setSrcFail_srcFail (s : State) (f : Bool) : (s.setSrcFail f).srcFail = f :=
    rfl
@[simp] theorem State.setSrcFail_code (s : State) (f : Bool) : (s.setSrcFail f).code = s.code := rfl
@[simp] theorem State.setSrcFail_fphase (s : State) (f : Bool) : (s.setSrcFail f).fphase = s.fphase :=
    rfl
@[simp] theorem State.setSrcFail_badh (s : State) (f : Bool) : (s.setSrcFail f).badh = s.badh := rfl
@[simp] theorem State.setSrcFail_badl (s : State) (f : Bool) : (s.setSrcFail f).badl = s.badl := rfl
@[simp] theorem State.setSrcFail_key (s : State) (f : Bool) : (s.setSrcFail f).key = s.key := rfl
@[simp] theorem State.setSrcFail_idx (s : State) (f : Bool) : (s.setSrcFail f).idx = s.idx := rfl
@[simp] theorem State.setSrcFail_acc (s : State) (f : Bool) : (s.setSrcFail f).acc = s.acc := rfl
@[simp] theorem State.setSrcFail_rb (s : State) (f : Bool) : (s.setSrcFail f).rb = s.rb := rfl
@[simp] theorem State.setSrcFail_config (s : State) (f : Bool) : (s.setSrcFail f).config = s.config :=
    rfl
@[simp] theorem State.setSrcFail_cmd (s : State) (f : Bool) : (s.setSrcFail f).cmd = s.cmd := rfl
@[simp] theorem State.setSrcFail_resets (s : State) (f : Bool) : (s.setSrcFail f).resets = s.resets :=
    rfl
@[simp] theorem State.setSrcFail_out (s : State) (f : Bool) : (s.setSrcFail f).out = s.out := rfl

/-! ## shift -/

@[simp] theorem State.shift_w0 (s : State) (b : Byte) : (s.shift b).w0 = s.w1 := rfl
@[simp] theorem State.shift_w1 (s : State) (b : Byte) : (s.shift b).w1 = s.w2 := rfl
@[simp] theorem State.shift_w2 (s : State) (b : Byte) : (s.shift b).w2 = b := rfl
@[simp] theorem State.shift_p1 (s : State) (b : Byte) : (s.shift b).p1 = s.p1 := rfl
@[simp] theorem State.shift_p2 (s : State) (b : Byte) : (s.shift b).p2 = s.p2 := rfl
@[simp] theorem State.shift_ia (s : State) (b : Byte) : (s.shift b).ia = s.ia := rfl
@[simp] theorem State.shift_ib (s : State) (b : Byte) : (s.shift b).ib = s.ib := rfl
@[simp] theorem State.shift_any3 (s : State) (b : Byte) : (s.shift b).any3 = s.any3 := rfl
@[simp] theorem State.shift_phase (s : State) (b : Byte) : (s.shift b).phase = s.phase := rfl
@[simp] theorem State.shift_srcFail (s : State) (b : Byte) : (s.shift b).srcFail = s.srcFail := rfl
@[simp] theorem State.shift_code (s : State) (b : Byte) : (s.shift b).code = s.code := rfl
@[simp] theorem State.shift_fphase (s : State) (b : Byte) : (s.shift b).fphase = s.fphase := rfl
@[simp] theorem State.shift_badh (s : State) (b : Byte) : (s.shift b).badh = s.badh := rfl
@[simp] theorem State.shift_badl (s : State) (b : Byte) : (s.shift b).badl = s.badl := rfl
@[simp] theorem State.shift_key (s : State) (b : Byte) : (s.shift b).key = s.key := rfl
@[simp] theorem State.shift_idx (s : State) (b : Byte) : (s.shift b).idx = s.idx := rfl
@[simp] theorem State.shift_acc (s : State) (b : Byte) : (s.shift b).acc = s.acc := rfl
@[simp] theorem State.shift_rb (s : State) (b : Byte) : (s.shift b).rb = s.rb := rfl
@[simp] theorem State.shift_config (s : State) (b : Byte) : (s.shift b).config = s.config := rfl
@[simp] theorem State.shift_cmd (s : State) (b : Byte) : (s.shift b).cmd = s.cmd := rfl
@[simp] theorem State.shift_resets (s : State) (b : Byte) : (s.shift b).resets = s.resets := rfl
@[simp] theorem State.shift_out (s : State) (b : Byte) : (s.shift b).out = s.out := rfl

/-! ## appendAcc -/

@[simp] theorem State.appendAcc_w0 (s : State) (b : Bool) : (s.appendAcc b).w0 = s.w0 := rfl
@[simp] theorem State.appendAcc_w1 (s : State) (b : Bool) : (s.appendAcc b).w1 = s.w1 := rfl
@[simp] theorem State.appendAcc_w2 (s : State) (b : Bool) : (s.appendAcc b).w2 = s.w2 := rfl
@[simp] theorem State.appendAcc_p1 (s : State) (b : Bool) : (s.appendAcc b).p1 = s.p1 := rfl
@[simp] theorem State.appendAcc_p2 (s : State) (b : Bool) : (s.appendAcc b).p2 = s.p2 := rfl
@[simp] theorem State.appendAcc_ia (s : State) (b : Bool) : (s.appendAcc b).ia = s.ia := rfl
@[simp] theorem State.appendAcc_ib (s : State) (b : Bool) : (s.appendAcc b).ib = s.ib := rfl
@[simp] theorem State.appendAcc_any3 (s : State) (b : Bool) : (s.appendAcc b).any3 = s.any3 := rfl
@[simp] theorem State.appendAcc_phase (s : State) (b : Bool) : (s.appendAcc b).phase = s.phase :=
    rfl
@[simp] theorem State.appendAcc_srcFail (s : State) (b : Bool) : (s.appendAcc b).srcFail = s.srcFail :=
    rfl
@[simp] theorem State.appendAcc_code (s : State) (b : Bool) : (s.appendAcc b).code = s.code := rfl
@[simp] theorem State.appendAcc_fphase (s : State) (b : Bool) : (s.appendAcc b).fphase = s.fphase :=
    rfl
@[simp] theorem State.appendAcc_badh (s : State) (b : Bool) : (s.appendAcc b).badh = s.badh := rfl
@[simp] theorem State.appendAcc_badl (s : State) (b : Bool) : (s.appendAcc b).badl = s.badl := rfl
@[simp] theorem State.appendAcc_key (s : State) (b : Bool) : (s.appendAcc b).key = s.key := rfl
@[simp] theorem State.appendAcc_idx (s : State) (b : Bool) : (s.appendAcc b).idx = s.idx := rfl
@[simp] theorem State.appendAcc_acc (s : State) (b : Bool) : (s.appendAcc b).acc = s.acc ++ [b] :=
    rfl
@[simp] theorem State.appendAcc_rb (s : State) (b : Bool) : (s.appendAcc b).rb = s.rb := rfl
@[simp] theorem State.appendAcc_config (s : State) (b : Bool) : (s.appendAcc b).config = s.config :=
    rfl
@[simp] theorem State.appendAcc_cmd (s : State) (b : Bool) : (s.appendAcc b).cmd = s.cmd := rfl
@[simp] theorem State.appendAcc_resets (s : State) (b : Bool) : (s.appendAcc b).resets = s.resets :=
    rfl
@[simp] theorem State.appendAcc_out (s : State) (b : Bool) : (s.appendAcc b).out = s.out := rfl

/-! ## appendRb -/

@[simp] theorem State.appendRb_w0 (s : State) (v : Byte) : (s.appendRb v).w0 = s.w0 := rfl
@[simp] theorem State.appendRb_w1 (s : State) (v : Byte) : (s.appendRb v).w1 = s.w1 := rfl
@[simp] theorem State.appendRb_w2 (s : State) (v : Byte) : (s.appendRb v).w2 = s.w2 := rfl
@[simp] theorem State.appendRb_p1 (s : State) (v : Byte) : (s.appendRb v).p1 = s.p1 := rfl
@[simp] theorem State.appendRb_p2 (s : State) (v : Byte) : (s.appendRb v).p2 = s.p2 := rfl
@[simp] theorem State.appendRb_ia (s : State) (v : Byte) : (s.appendRb v).ia = s.ia := rfl
@[simp] theorem State.appendRb_ib (s : State) (v : Byte) : (s.appendRb v).ib = s.ib := rfl
@[simp] theorem State.appendRb_any3 (s : State) (v : Byte) : (s.appendRb v).any3 = s.any3 := rfl
@[simp] theorem State.appendRb_phase (s : State) (v : Byte) : (s.appendRb v).phase = s.phase := rfl
@[simp] theorem State.appendRb_srcFail (s : State) (v : Byte) : (s.appendRb v).srcFail = s.srcFail :=
    rfl
@[simp] theorem State.appendRb_code (s : State) (v : Byte) : (s.appendRb v).code = s.code := rfl
@[simp] theorem State.appendRb_fphase (s : State) (v : Byte) : (s.appendRb v).fphase = s.fphase :=
    rfl
@[simp] theorem State.appendRb_badh (s : State) (v : Byte) : (s.appendRb v).badh = s.badh := rfl
@[simp] theorem State.appendRb_badl (s : State) (v : Byte) : (s.appendRb v).badl = s.badl := rfl
@[simp] theorem State.appendRb_key (s : State) (v : Byte) : (s.appendRb v).key = s.key := rfl
@[simp] theorem State.appendRb_idx (s : State) (v : Byte) : (s.appendRb v).idx = s.idx := rfl
@[simp] theorem State.appendRb_acc (s : State) (v : Byte) : (s.appendRb v).acc = s.acc := rfl
@[simp] theorem State.appendRb_rb (s : State) (v : Byte) : (s.appendRb v).rb = s.rb ++ [v] := rfl
@[simp] theorem State.appendRb_config (s : State) (v : Byte) : (s.appendRb v).config = s.config :=
    rfl
@[simp] theorem State.appendRb_cmd (s : State) (v : Byte) : (s.appendRb v).cmd = s.cmd := rfl
@[simp] theorem State.appendRb_resets (s : State) (v : Byte) : (s.appendRb v).resets = s.resets :=
    rfl
@[simp] theorem State.appendRb_out (s : State) (v : Byte) : (s.appendRb v).out = s.out := rfl

/-! ## raise -/

@[simp] theorem State.raise_w0 (s : State) (c : FaultCode) (w : Word) : (s.raise c w).w0 = s.w0 :=
    rfl
@[simp] theorem State.raise_w1 (s : State) (c : FaultCode) (w : Word) : (s.raise c w).w1 = s.w1 :=
    rfl
@[simp] theorem State.raise_w2 (s : State) (c : FaultCode) (w : Word) : (s.raise c w).w2 = s.w2 :=
    rfl
@[simp] theorem State.raise_p1 (s : State) (c : FaultCode) (w : Word) : (s.raise c w).p1 = s.p1 :=
    rfl
@[simp] theorem State.raise_p2 (s : State) (c : FaultCode) (w : Word) : (s.raise c w).p2 = s.p2 :=
    rfl
@[simp] theorem State.raise_ia (s : State) (c : FaultCode) (w : Word) : (s.raise c w).ia = s.ia :=
    rfl
@[simp] theorem State.raise_ib (s : State) (c : FaultCode) (w : Word) : (s.raise c w).ib = s.ib :=
    rfl
@[simp] theorem State.raise_any3 (s : State) (c : FaultCode) (w : Word) :
    (s.raise c w).any3 = s.any3 := rfl
@[simp] theorem State.raise_phase (s : State) (c : FaultCode) (w : Word) :
    (s.raise c w).phase = .fault := rfl
@[simp] theorem State.raise_srcFail (s : State) (c : FaultCode) (w : Word) :
    (s.raise c w).srcFail = s.srcFail := rfl
@[simp] theorem State.raise_code (s : State) (c : FaultCode) (w : Word) :
    (s.raise c w).code = some c := rfl
@[simp] theorem State.raise_fphase (s : State) (c : FaultCode) (w : Word) :
    (s.raise c w).fphase = s.phase := rfl
@[simp] theorem State.raise_badh (s : State) (c : FaultCode) (w : Word) :
    (s.raise c w).badh = w.extractLsb' 8 8 := rfl
@[simp] theorem State.raise_badl (s : State) (c : FaultCode) (w : Word) :
    (s.raise c w).badl = w.extractLsb' 0 8 := rfl
@[simp] theorem State.raise_key (s : State) (c : FaultCode) (w : Word) : (s.raise c w).key = s.key :=
    rfl
@[simp] theorem State.raise_idx (s : State) (c : FaultCode) (w : Word) : (s.raise c w).idx = s.idx :=
    rfl
@[simp] theorem State.raise_acc (s : State) (c : FaultCode) (w : Word) : (s.raise c w).acc = s.acc :=
    rfl
@[simp] theorem State.raise_rb (s : State) (c : FaultCode) (w : Word) : (s.raise c w).rb = s.rb :=
    rfl
@[simp] theorem State.raise_config (s : State) (c : FaultCode) (w : Word) :
    (s.raise c w).config = s.config := rfl
@[simp] theorem State.raise_cmd (s : State) (c : FaultCode) (w : Word) : (s.raise c w).cmd = s.cmd :=
    rfl
@[simp] theorem State.raise_resets (s : State) (c : FaultCode) (w : Word) :
    (s.raise c w).resets = s.resets := rfl
@[simp] theorem State.raise_out (s : State) (c : FaultCode) (w : Word) :
    (s.raise c w).out = s.out ++ [.fault c] := rfl

/-! ## dropReset -/

@[simp] theorem State.dropReset_w0 (s : State) : (s.dropReset).w0 = s.w0 := rfl
@[simp] theorem State.dropReset_w1 (s : State) : (s.dropReset).w1 = s.w1 := rfl
@[simp] theorem State.dropReset_w2 (s : State) : (s.dropReset).w2 = s.w2 := rfl
@[simp] theorem State.dropReset_p1 (s : State) : (s.dropReset).p1 = s.p1 := rfl
@[simp] theorem State.dropReset_p2 (s : State) : (s.dropReset).p2 = s.p2 := rfl
@[simp] theorem State.dropReset_ia (s : State) : (s.dropReset).ia = s.ia := rfl
@[simp] theorem State.dropReset_ib (s : State) : (s.dropReset).ib = s.ib := rfl
@[simp] theorem State.dropReset_any3 (s : State) : (s.dropReset).any3 = s.any3 := rfl
@[simp] theorem State.dropReset_phase (s : State) : (s.dropReset).phase = s.phase := rfl
@[simp] theorem State.dropReset_srcFail (s : State) : (s.dropReset).srcFail = s.srcFail := rfl
@[simp] theorem State.dropReset_code (s : State) : (s.dropReset).code = s.code := rfl
@[simp] theorem State.dropReset_fphase (s : State) : (s.dropReset).fphase = s.fphase := rfl
@[simp] theorem State.dropReset_badh (s : State) : (s.dropReset).badh = s.badh := rfl
@[simp] theorem State.dropReset_badl (s : State) : (s.dropReset).badl = s.badl := rfl
@[simp] theorem State.dropReset_key (s : State) : (s.dropReset).key = s.key := rfl
@[simp] theorem State.dropReset_idx (s : State) : (s.dropReset).idx = s.idx := rfl
@[simp] theorem State.dropReset_acc (s : State) : (s.dropReset).acc = s.acc := rfl
@[simp] theorem State.dropReset_rb (s : State) : (s.dropReset).rb = s.rb := rfl
@[simp] theorem State.dropReset_config (s : State) : (s.dropReset).config = s.config := rfl
@[simp] theorem State.dropReset_cmd (s : State) : (s.dropReset).cmd = s.cmd := rfl
@[simp] theorem State.dropReset_resets (s : State) : (s.dropReset).resets = s.resets.tail := rfl
@[simp] theorem State.dropReset_out (s : State) : (s.dropReset).out = s.out := rfl

/-! ## tickReset -/

@[simp] theorem State.tickReset_w0 (s : State) : (s.tickReset).w0 = s.w0 := rfl
@[simp] theorem State.tickReset_w1 (s : State) : (s.tickReset).w1 = s.w1 := rfl
@[simp] theorem State.tickReset_w2 (s : State) : (s.tickReset).w2 = s.w2 := rfl
@[simp] theorem State.tickReset_p1 (s : State) : (s.tickReset).p1 = s.p1 := rfl
@[simp] theorem State.tickReset_p2 (s : State) : (s.tickReset).p2 = s.p2 := rfl
@[simp] theorem State.tickReset_ia (s : State) : (s.tickReset).ia = s.ia := rfl
@[simp] theorem State.tickReset_ib (s : State) : (s.tickReset).ib = s.ib := rfl
@[simp] theorem State.tickReset_any3 (s : State) : (s.tickReset).any3 = s.any3 := rfl
@[simp] theorem State.tickReset_phase (s : State) : (s.tickReset).phase = s.phase := rfl
@[simp] theorem State.tickReset_srcFail (s : State) : (s.tickReset).srcFail = s.srcFail := rfl
@[simp] theorem State.tickReset_code (s : State) : (s.tickReset).code = s.code := rfl
@[simp] theorem State.tickReset_fphase (s : State) : (s.tickReset).fphase = s.fphase := rfl
@[simp] theorem State.tickReset_badh (s : State) : (s.tickReset).badh = s.badh := rfl
@[simp] theorem State.tickReset_badl (s : State) : (s.tickReset).badl = s.badl := rfl
@[simp] theorem State.tickReset_key (s : State) : (s.tickReset).key = s.key := rfl
@[simp] theorem State.tickReset_idx (s : State) : (s.tickReset).idx = s.idx := rfl
@[simp] theorem State.tickReset_acc (s : State) : (s.tickReset).acc = s.acc := rfl
@[simp] theorem State.tickReset_rb (s : State) : (s.tickReset).rb = s.rb := rfl
@[simp] theorem State.tickReset_config (s : State) : (s.tickReset).config = s.config := rfl
@[simp] theorem State.tickReset_cmd (s : State) : (s.tickReset).cmd = s.cmd := rfl
@[simp] theorem State.tickReset_out (s : State) : (s.tickReset).out = s.out := rfl

/-! ## resetEvent -/

@[simp] theorem State.resetEvent_w0 (s : State) : s.resetEvent.w0 = 0x00 := rfl
@[simp] theorem State.resetEvent_w1 (s : State) : s.resetEvent.w1 = 0x00 := rfl
@[simp] theorem State.resetEvent_w2 (s : State) : s.resetEvent.w2 = 0x00 := rfl
@[simp] theorem State.resetEvent_p1 (s : State) : s.resetEvent.p1 = 0xE2 := rfl
@[simp] theorem State.resetEvent_p2 (s : State) : s.resetEvent.p2 = 0x80 := rfl
@[simp] theorem State.resetEvent_ia (s : State) : s.resetEvent.ia = 0x8C := rfl
@[simp] theorem State.resetEvent_ib (s : State) : s.resetEvent.ib = 0x8D := rfl
@[simp] theorem State.resetEvent_any3 (s : State) : s.resetEvent.any3 = false := rfl
@[simp] theorem State.resetEvent_phase (s : State) : s.resetEvent.phase = .idle := rfl
@[simp] theorem State.resetEvent_srcFail (s : State) : s.resetEvent.srcFail = false := rfl
@[simp] theorem State.resetEvent_code (s : State) : s.resetEvent.code = none := rfl
@[simp] theorem State.resetEvent_fphase (s : State) : s.resetEvent.fphase = .idle := rfl
@[simp] theorem State.resetEvent_badh (s : State) : s.resetEvent.badh = 0x00 := rfl
@[simp] theorem State.resetEvent_badl (s : State) : s.resetEvent.badl = 0x00 := rfl
@[simp] theorem State.resetEvent_key (s : State) : s.resetEvent.key = 0x00 := rfl
@[simp] theorem State.resetEvent_idx (s : State) : s.resetEvent.idx = 0 := rfl
@[simp] theorem State.resetEvent_acc (s : State) : s.resetEvent.acc = [] := rfl
@[simp] theorem State.resetEvent_rb (s : State) : s.resetEvent.rb = [] := rfl
@[simp] theorem State.resetEvent_config (s : State) : s.resetEvent.config = s.config := rfl
@[simp] theorem State.resetEvent_cmd (s : State) : s.resetEvent.cmd = s.cmd := rfl
@[simp] theorem State.resetEvent_resets (s : State) : s.resetEvent.resets = s.resets := rfl
@[simp] theorem State.resetEvent_out (s : State) : s.resetEvent.out = [] := rfl

/-! ## Derived counters under the updates that change a memory -/

@[simp] theorem State.appendAcc_bitCnt (s : State) (b : Bool) :
    (s.appendAcc b).bitCnt = s.bitCnt + 1 := by simp [State.bitCnt]

@[simp] theorem State.appendRb_byteCnt (s : State) (v : Byte) :
    (s.appendRb v).byteCnt = s.byteCnt + 1 := by simp [State.byteCnt]

/-! ## The reset counter -/

@[simp] theorem State.tickReset_resets_nil (s : State) (h : s.resets = []) :
    s.tickReset.resets = [] := by simp [State.tickReset, h]

@[simp] theorem State.tickReset_resets_cons (s : State) (n : Nat) (rest : List Nat)
    (h : s.resets = n :: rest) : s.tickReset.resets = (n - 1) :: rest := by
  simp [State.tickReset, h]

theorem State.tickReset_of_nil (s : State) (h : s.resets = []) : s.tickReset = s := by
  cases s; simp_all [State.tickReset]

theorem State.resetDue_iff (s : State) : s.resetDue = true ↔ s.resets.head? = some 0 := by
  simp [State.resetDue]

end Sys2Proof.Machine
end

