-- ==== Sys2Proof/Laws/Ops.lean ====
section
/-! SUPPORT. What the shared operations can do, said once: the two shapes of a meaning, the memory
reads, the select word, and that every memory operation keeps the memories in form. -/

namespace Sys2Proof.Machine

/-! ## The two shapes of a meaning -/

/-- A command never stops the model, and answers one of three states. -/
theorem runCommand_cases (w : Word) (f : InFault) (check : Option FaultCode) (effect : State → State)
    (s : State) :
    (runCommand w f check effect s = .next s ∧
      (isBusy s.phase = true ∨ s.phase = .fault ∧ (f = .discarded ∨ check ≠ none))) ∨
    (∃ c, check = some c ∧ runCommand w f check effect s = .next (s.raise c w) ∧
      isBusy s.phase = false ∧ s.phase ≠ .fault) ∨
    (check = none ∧ runCommand w f check effect s = .next (effect s) ∧ isBusy s.phase = false ∧
      (s.phase = .fault → f = .executes)) := by
  unfold runCommand
  by_cases hb : isBusy s.phase = true
  · simp [hb]
  · by_cases hf : s.phase = .fault
    · cases f <;> cases check <;> simp [hf, isBusy]
    · cases check <;> simp_all

/-- In IDLE, SCAN and DONE a command that passes its checks has its effect. -/
theorem runCommand_effect (w : Word) (f : InFault) (effect : State → State) (s : State)
    (h : s.phase = .idle ∨ s.phase = .scan ∨ s.phase = .done) :
    runCommand w f none effect s = .next (effect s) := by
  rcases h with h | h | h <;> simp [runCommand, h, isBusy]

/-- In IDLE, SCAN and DONE a command whose check fails takes the fault. -/
theorem runCommand_raise (w : Word) (f : InFault) (c : FaultCode) (effect : State → State) (s : State)
    (h : s.phase = .idle ∨ s.phase = .scan ∨ s.phase = .done) :
    runCommand w f (some c) effect s = .next (s.raise c w) := by
  rcases h with h | h | h <;> simp [runCommand, h, isBusy]

/-- A selected sequencer operation acts. -/
theorem runSelected_of_selected (i : Instr) (act : State → Result) (s : State)
    (h : decodeSelect s.select = some i) : runSelected i act s = act s := by
  simp [runSelected, h]

/-- If a sequencer operation answers a next state, it was selected and acted. -/
theorem runSelected_next {i : Instr} {act : State → Result} {s t : State}
    (h : runSelected i act s = .next t) : decodeSelect s.select = some i ∧ act s = .next t := by
  unfold runSelected at h
  split at h
  · exact ⟨by assumption, h⟩
  · simp at h

/-- If an operation on a memory read answers a next state, the location was written. -/
theorem withRead_next {α : Type} {read : Option α} {act : α → State} {t : State}
    (h : withRead read act = .next t) : ∃ v, read = some v ∧ t = act v := by
  cases read with
  | none => simp [withRead] at h
  | some v =>
    simp only [withRead, Host.Outcome.next.injEq] at h
    exact ⟨v, rfl, h.symm⟩

/-! ## The select word -/

/-- The operation that {klast, more, PHASE} selects, phase by phase (30_encoding.md R67). -/
def selectTable (klast more : Bool) (p : Phase) : Option Instr :=
  match p, more with
  | .dump, true => some .dumpb
  | .dump, false => some .dumpx
  | .pack, true => some .packb
  | .pack, false => some .packx
  | .xorh, _ => some .keyh
  | .xorb, true => some .xorb
  | .xorb, false => if klast then some .fin else some .keyn
  | .idle, _ => none
  | .scan, _ => none
  | .done, _ => none
  | .fault, _ => none

theorem decodeSelect_fields (klast more : Bool) (p : Phase) :
    decodeSelect (BitVec.ofBool klast ++ BitVec.ofBool more ++ phaseBits p) =
      selectTable klast more p := by
  cases klast <;> cases more <;> cases p <;> decide

/-- The select word decodes as the table says of its three fields. -/
theorem decodeSelect_select (s : State) :
    decodeSelect s.select = selectTable s.klast s.more s.phase :=
  decodeSelect_fields s.klast s.more s.phase

/-! ## Memory reads -/

theorem State.readAcc_isSome (s : State) (a n : Nat) :
    (s.readAcc a n).isSome = true ↔ a + n ≤ s.bitCnt := by
  simp only [State.readAcc]; split <;> simp_all

theorem State.readRb_isSome (s : State) (j : Nat) :
    (s.readRb j).isSome = true ↔ j < s.byteCnt := by
  simp [State.readRb, State.byteCnt]

/-- Reads of ACC depend on ACC alone. -/
theorem State.readAcc_congr {s t : State} (h : t.acc = s.acc) (a n : Nat) :
    t.readAcc a n = s.readAcc a n := by
  simp only [State.readAcc, State.bitCnt, h]

/-- Reads of RB depend on RB alone. -/
theorem State.readRb_congr {s t : State} (h : t.rb = s.rb) (j : Nat) :
    t.readRb j = s.readRb j := by
  simp [State.readRb, h]

/-- An append to RB leaves every other location as it was. -/
theorem State.readRb_appendRb_of_ne (s : State) (v : Byte) (j : Nat) (h : j ≠ s.byteCnt) :
    (s.appendRb v).readRb j = s.readRb j := by
  simp only [State.readRb, State.appendRb_rb, State.byteCnt] at *
  rcases Nat.lt_or_gt_of_ne h with h | h
  · simp [List.getElem?_append_left h]
  · rw [List.getElem?_eq_none (by simp; omega), List.getElem?_eq_none (by omega)]

/-- A location just written reads as the value written. -/
theorem State.readRb_appendRb_self (s : State) (v : Byte) :
    (s.appendRb v).readRb s.byteCnt = some v := by
  simp [State.readRb, State.byteCnt]

/-- An append to ACC leaves every read of already written locations as it was. -/
theorem State.readAcc_appendAcc_of_le (s : State) (b : Bool) (a n : Nat) (h : a + n ≤ s.bitCnt) :
    (s.appendAcc b).readAcc a n = s.readAcc a n := by
  simp only [State.bitCnt] at h
  have hd : ((s.acc ++ [b]).drop a).take n = (s.acc.drop a).take n := by
    rw [List.drop_append_of_le_length (by omega), List.take_append_of_le_length (by simp; omega)]
  simp only [State.readAcc, State.bitCnt, State.appendAcc_acc, List.length_append,
    List.length_singleton, hd]
  rw [if_pos (show a + n ≤ s.acc.length + 1 by omega), if_pos h]

/-! ## The memories stay in form -/

theorem Memory.wf_congr {s t : State} (ha : t.acc = s.acc) (hr : t.rb = s.rb)
    (hc : t.config = s.config) : Memory.wf t = Memory.wf s := by
  simp [Memory.wf, State.bitCnt, State.byteCnt, ha, hr, hc]

theorem withinCap_succ {cap : Option Nat} {n : Nat} (h : withinCap cap n = true)
    (hne : cap ≠ some n) : withinCap cap (n + 1) = true := by
  cases cap with
  | none => rfl
  | some k =>
    simp only [withinCap, decide_eq_true_eq] at *
    have : k ≠ n := fun e => hne (congrArg some e)
    omega

/-- The append of PUSH, made only when the accumulator is not full, keeps the form. -/
theorem Memory.wf_appendAcc {s : State} (b : Bool) (h : Memory.wf s = true)
    (hf : s.accFull = false) : Memory.wf (s.appendAcc b) = true := by
  simp only [Memory.wf, Bool.and_eq_true, State.appendAcc_bitCnt] at *
  refine ⟨withinCap_succ h.1 ?_, h.2⟩
  intro e
  rw [State.appendAcc_config] at e
  simp [State.accFull, e] at hf

/-- The store of PACKB, made only when a whole group is unpacked, keeps the form. -/
theorem Memory.wf_appendRb {s : State} (v : Byte) (h : Memory.wf s = true)
    (hf : s.byteCnt < s.bitCnt / 8) : Memory.wf (s.appendRb v) = true := by
  simp only [Memory.wf, Bool.and_eq_true, State.appendRb_byteCnt] at *
  refine ⟨h.1, withinCap_succ h.2 ?_⟩
  intro e
  rw [State.appendRb_config] at e
  cases hc : s.config.accCap with
  | none => simp [rbCap, hc] at e
  | some k =>
    have h1 := h.1
    simp only [hc, withinCap, decide_eq_true_eq] at h1
    simp only [rbCap, hc, Option.map_some, Option.some.injEq] at e
    omega

/-- A reset event leaves both memories empty, which is in form for every capacity. -/
theorem Memory.wf_resetEvent (s : State) : Memory.wf s.resetEvent = true := by
  cases h : s.config.accCap <;>
    simp [Memory.wf, withinCap, rbCap, State.bitCnt, State.byteCnt, h]

end Sys2Proof.Machine
end

