-- ==== Sys2Proof/Laws/PerInstr.lean ====
section
/-! SUPPORT. One lemma per operation: its encoding is a word of its own row of the opcode table
(30_encoding.md R61, R67). -/

namespace Sys2Proof.Laws

/-- The encoding of `i` matches a row of the table that carries the mnemonic of `i`. -/
def Row.Statement (i : Instr) : Prop :=
  match encode i with
  | .cmd16 w => ∃ row ∈ commandRows, row.mnemonic = mnemonic i ∧ row.hits w = true
  | .seq5 k => ∃ row ∈ selectRows, row.1.mnemonic = mnemonic i ∧ row.2 = i ∧ row.1.hits k = true

theorem Row.nop : Row.Statement .nop :=
  ⟨⟨"NOP", 0x0000, 0xFFFF⟩, by decide, rfl, by decide⟩

theorem Row.push (b : Byte) : Row.Statement (.push b) := by
  refine ⟨⟨"PUSH", 0x1000, 0xFF00⟩, by decide, rfl, ?_⟩
  simp only [Row.hits, wordPush, beq_iff_eq]
  revert b; decide

theorem Row.endStream (f : Bool) : Row.Statement (.endStream f) := by
  refine ⟨⟨"END", 0x2000, 0xFFFE⟩, by decide, rfl, ?_⟩
  cases f <;> decide

theorem Row.wrc (r : RegIndex) (v : Byte) : Row.Statement (.wrc r v) := by
  refine ⟨⟨"WRC", 0x3000, 0xF000⟩, by decide, rfl, ?_⟩
  simp only [Row.hits, wordWrc, beq_iff_eq]
  have hm : (0xF000 : Word) = 0xF#4 ++ 0x0#4 ++ 0x00#8 := by decide
  rw [hm, BitVec.and_append, BitVec.and_append]
  simp

theorem Row.rdr (r : RegIndex) : Row.Statement (.rdr r) := by
  refine ⟨⟨"RDR", 0x4000, 0xF0FF⟩, by decide, rfl, ?_⟩
  simp only [Row.hits, wordRdr, beq_iff_eq]
  revert r; decide

theorem Row.dumpb : Row.Statement .dumpb :=
  ⟨(⟨"DUMPB", 0b01010, 0b01111⟩, .dumpb), by decide, rfl, rfl, by decide⟩

theorem Row.dumpx : Row.Statement .dumpx :=
  ⟨(⟨"DUMPX", 0b00010, 0b01111⟩, .dumpx), by decide, rfl, rfl, by decide⟩

theorem Row.packb : Row.Statement .packb :=
  ⟨(⟨"PACKB", 0b01011, 0b01111⟩, .packb), by decide, rfl, rfl, by decide⟩

theorem Row.packx : Row.Statement .packx :=
  ⟨(⟨"PACKX", 0b00011, 0b01111⟩, .packx), by decide, rfl, rfl, by decide⟩

theorem Row.keyh : Row.Statement .keyh :=
  ⟨(⟨"KEYH", 0b00100, 0b00111⟩, .keyh), by decide, rfl, rfl, by decide⟩

theorem Row.xorb : Row.Statement .xorb :=
  ⟨(⟨"XORB", 0b01101, 0b01111⟩, .xorb), by decide, rfl, rfl, by decide⟩

theorem Row.keyn : Row.Statement .keyn :=
  ⟨(⟨"KEYN", 0b00101, 0b11111⟩, .keyn), by decide, rfl, rfl, by decide⟩

theorem Row.fin : Row.Statement .fin :=
  ⟨(⟨"FIN", 0b10101, 0b11111⟩, .fin), by decide, rfl, rfl, by decide⟩

end Sys2Proof.Laws
end

