-- ==== Sys2Proof/Laws/Runs.lean ====
section
/-! SUPPORT. Running several steps, the step when no reset is to come, and how the decode function of
45_whole_run.md grows by one byte or one group. -/

namespace Sys2Proof.Machine

/-! ## Steps and runs -/

/-- With no reset event due, a step is a step of the block. -/
theorem step_of_not_due (s : State) (h : s.resets.head? ≠ some 0) :
    step s = blockStep s.tickReset := by
  simp [step, oneStep, State.resetDue, h]

/-- With no reset to come, a step is a step of the block on the very state. -/
theorem step_of_no_resets (s : State) (h : s.resets = []) : step s = blockStep s := by
  rw [step_of_not_due s (by simp [h]), State.tickReset_of_nil s h]

/-- A run starts with one step. -/
theorem run_succ_of_next {s t : State} (h : step s = .next t) (k : Nat) :
    Host.Core.run Sys2Proof.core (k + 1) s = Host.Core.run Sys2Proof.core k t := by
  have h' : Sys2Proof.core.step s = .next t := h
  simp [Host.Core.run, h']

/-- A run can be cut in two. -/
theorem run_add_of_next {a : Nat} {s t : State} (h : Host.Core.run Sys2Proof.core a s = .next t)
    (b : Nat) :
    Host.Core.run Sys2Proof.core (a + b) s = Host.Core.run Sys2Proof.core b t := by
  induction a generalizing s with
  | zero =>
    simp only [Host.Core.run] at h
    have e : s = t := Host.Outcome.next.inj h
    rw [e, Nat.zero_add]
  | succ a ih =>
    rw [Nat.succ_add]
    simp only [Host.Core.run] at h ⊢
    split at h
    · exact ih h
    · simp at h
    · simp at h

/-! ## The decode function, one byte more -/

/-- A byte at or before `i` is not changed by bytes appended after `i`. -/
theorem byteBefore_append (bytes more : List Byte) (i back : Nat) (h : i < bytes.length) :
    byteBefore (bytes ++ more) i back = byteBefore bytes i back := by
  unfold byteBefore
  split
  · rw [List.getD_append _ _ _ _ (by omega)]
  · rfl

theorem recognizedAt_append (c : Pattern) (bytes more : List Byte) (i : Nat)
    (h : i < bytes.length) :
    recognizedAt c (bytes ++ more) i = recognizedAt c bytes i := by
  simp [recognizedAt, byteBefore_append _ _ _ _ h]

/-- One byte more appends at most one bit: its least significant bit, if its window is recognized. -/
theorem runBits_snoc (c : Pattern) (bytes : List Byte) (b : Byte) :
    runBits c (bytes ++ [b]) =
      runBits c bytes ++
        if recognizedAt c (bytes ++ [b]) bytes.length then [decide (b.toNat % 2 = 1)] else [] := by
  have hb : byteBefore (bytes ++ [b]) bytes.length 0 = b := by simp [byteBefore]
  have hf : (List.range bytes.length).filter (recognizedAt c (bytes ++ [b])) =
      (List.range bytes.length).filter (recognizedAt c bytes) :=
    List.filter_congr fun i hi => recognizedAt_append c bytes [b] i (List.mem_range.1 hi)
  have hm : ((List.range bytes.length).filter (recognizedAt c bytes)).map
        (fun i => decide ((byteBefore (bytes ++ [b]) i 0).toNat % 2 = 1)) = runBits c bytes := by
    refine List.map_congr_left fun i hi => ?_
    rw [byteBefore_append _ _ _ _ (List.mem_range.1 (List.mem_filter.1 hi).1)]
  rw [runBits, List.length_append, List.length_singleton, List.range_succ, List.filter_append,
    List.map_append, hf, hm]
  by_cases hr : recognizedAt c (bytes ++ [b]) bytes.length = true <;> simp [hr, hb]

/-- The window of the new last byte is the old window shifted (41_marker_scanner.md R80). -/
theorem lastWindow_snoc (bytes : List Byte) (b : Byte) :
    lastWindow (bytes ++ [b]) = ((lastWindow bytes).2.1, (lastWindow bytes).2.2, b) := by
  have h0 : byteBefore (bytes ++ [b]) bytes.length 0 = b := by simp [byteBefore]
  cases hl : bytes with
  | nil => simp [lastWindow, windowAt, byteBefore]
  | cons x xs =>
    rw [← hl]
    have hlen : bytes.length = xs.length + 1 := by simp [hl]
    have hne : bytes ≠ [] := by simp [hl]
    have h1 : byteBefore (bytes ++ [b]) bytes.length 1 =
        byteBefore bytes (bytes.length - 1) 0 := by
      simp [byteBefore, hlen]
    have h2 : byteBefore (bytes ++ [b]) bytes.length 2 =
        byteBefore bytes (bytes.length - 1) 1 := by
      by_cases hx : xs.length = 0
      · simp [byteBefore, hlen, hx]
      · have : (bytes ++ [b]).getD (bytes.length - 2) 0 = bytes.getD (bytes.length - 2) 0 :=
          List.getD_append _ _ _ _ (by omega)
        have e : bytes.length - 1 - 1 = bytes.length - 2 := by omega
        simp only [byteBefore, e]
        rw [if_pos (by omega), if_pos (by omega)]
        exact this
    simp [lastWindow, hne, windowAt, h0, h1, h2]

/-! ## The decode function, one group more -/

/-- The 8-bit read of PACKB is the sum of 45_whole_run.md R120. -/
theorem readAcc_group (s : State) (j : Nat) (h : 8 * j + 8 ≤ s.acc.length) :
    s.readAcc (8 * j) 8 = some (packedByte s.acc j) := by
  have hg : ∀ t, t < 8 → ((s.acc.drop (8 * j)).take 8).getD t false =
      s.acc.getD (8 * j + t) false := by
    intro t ht
    rw [List.getD_eq_getElem?_getD, List.getElem?_take_of_lt ht, List.getElem?_drop,
      List.getD_eq_getElem?_getD]
  have hl : ((s.acc.drop (8 * j)).take 8).length = 8 := by simp; omega
  simp only [State.readAcc, State.bitCnt]
  rw [if_pos h]
  generalize (s.acc.drop (8 * j)).take 8 = g at hg hl
  match g, hl with
  | [a0, a1, a2, a3, a4, a5, a6, a7], _ =>
    simp only [packedByte, Option.some.injEq]
    rw [← hg 0 (by omega), ← hg 1 (by omega), ← hg 2 (by omega), ← hg 3 (by omega),
      ← hg 4 (by omega), ← hg 5 (by omega), ← hg 6 (by omega), ← hg 7 (by omega)]
    simp only [bitsValue, List.foldl_cons, List.foldl_nil, List.getD_cons_zero,
      List.getD_cons_succ]
    congr 1
    omega

/-- The bytes packed so far, one more. -/
theorem packedBytes_take_succ (bits : List Bool) (n : Nat) (h : n < bits.length / 8) :
    (packedBytes bits).take (n + 1) = (packedBytes bits).take n ++ [packedByte bits n] := by
  have hl : n < (packedBytes bits).length := by simpa [packedBytes] using h
  rw [List.take_add_one, List.getElem?_eq_getElem hl]
  simp [packedBytes]

/-- The keys below `n + 1` are the keys below `n`, then `n`. -/
theorem keyLog_succ (rb : List Byte) (n : Nat) :
    keyLog rb (n + 1) = keyLog rb n ++ keyGroup rb n := by
  simp [keyLog, List.range_succ]

end Sys2Proof.Machine
end

