-- ==== Sys2Proof/Tests/Slice0.lean ====
section
/-! SUPPORT. Small tests of the definitions, with expected values from 95_test_vectors.md and words
written out from 30_encoding.md, and one witness for the hypotheses of each statement. -/

namespace Sys2Proof.Tests

open Sys2Proof Sys2Proof.Machine

/-! ## Helpers -/

/-- The next state of an outcome. -/
def after : Result → Option State
  | .next t => some t
  | .fault _ => none
  | .refused _ => none

/-- The reset state in phase `p`. -/
def inPhase (p : Phase) : State := { State.reset with phase := p }

/-- The window before the third byte of a marker (V7). -/
def beforeMarker (p : Phase) : State := { inPhase p with w1 := 0xE2, w2 := 0x80 }

/-- The state V10 starts from, its accumulator cut to eleven bits (P2). -/
def dumping : State :=
  { inPhase .dump with
    acc := [false, true, true, false, false, false, true, false, true, false, true] }

/-- V12: two reconstructed bytes, in the loop of key 0x2A. -/
def xoring : State := { inPhase .xorb with rb := [0x62, 0x43], key := 0x2A, idx := 2 }

/-- V15: the state of phase FAULT. -/
def faulted : State :=
  { inPhase .fault with w2 := 0x41, code := some .cfglock, fphase := .scan, badh := 0x30 }

/-! ## WellFormed refuses ill-formed terms -/

theorem test_wellFormed_rdr_reserved : WellFormed (.rdr 13) = false := by decide
theorem test_wellFormed_wrc_reserved : WellFormed (.wrc 15 0) = false := by decide
theorem test_wellFormed_wrc_ctl : WellFormed (.wrc 4 2) = false := by decide
theorem test_wellFormed_accepts : WellFormed (.wrc 4 1) && WellFormed (.rdr 12) = true := by decide

/-! ## Decoding: a word of every operation, written out from R61 and R67 -/

theorem test_decode_nop : decodeCommand 0b0000000000000000 = .ok .nop := by decide
theorem test_decode_push : decodeCommand 0b0001000011100010 = .ok (.push 0xE2) := by decide
theorem test_decode_end : decodeCommand 0b0010000000000001 = .ok (.endStream true) := by decide
theorem test_decode_wrc : decodeCommand 0b0011001010001011 = .ok (.wrc 2 0x8B) := by decide
theorem test_decode_rdr : decodeCommand 0b0100110000000000 = .ok (.rdr 12) := by decide
theorem test_decode_dumpb : decodeSelect 0b11010 = some .dumpb := by decide
theorem test_decode_dumpx : decodeSelect 0b00010 = some .dumpx := by decide
theorem test_decode_packb : decodeSelect 0b01011 = some .packb := by decide
theorem test_decode_packx : decodeSelect 0b10011 = some .packx := by decide
theorem test_decode_keyh : decodeSelect 0b11100 = some .keyh := by decide
theorem test_decode_xorb : decodeSelect 0b01101 = some .xorb := by decide
theorem test_decode_keyn : decodeSelect 0b00101 = some .keyn := by decide
theorem test_decode_fin : decodeSelect 0b10101 = some .fin := by decide

/-- V14: the classes of illegal words. -/
theorem test_decode_illegal :
    decodeCommand 0x0FFF = .error .mustBeZero ∧ decodeCommand 0x1100 = .error .mustBeZero ∧
    decodeCommand 0x2002 = .error .mustBeZero ∧ decodeCommand 0x45FF = .error .mustBeZero ∧
    decodeCommand 0x5000 = .error .reservedOpcode ∧
    decodeCommand 0xFFFF = .error .reservedOpcode := by decide

/-- R67: phases IDLE, SCAN, DONE and FAULT select nothing, whatever the other bits. -/
theorem test_decode_select_none :
    [0b00000, 0b11001, 0b01110, 0b11111].map decodeSelect = [none, none, none, none] := by decide

/-- The opcode-table entry of a SEQ5 row is one byte; of a CMD16 row two. -/
theorem test_decodeTableWord :
    decodeTableWord 8 0x15 = some .fin ∧ decodeTableWord 16 0x1041 = some (.push 0x41) ∧
    decodeTableWord 8 0x20 = none := by decide

/-- R70: the words of V7, V8 and V13. -/
theorem test_encode_words :
    encode (.push 0x8D) = .cmd16 0x108D ∧ encode (.endStream false) = .cmd16 0x2000 ∧
    encode (.wrc 3 0x30) = .cmd16 0x3330 ∧ encode (.rdr 11) = .cmd16 0x4B00 := by decide

/-! ## Commands (V7, V8, V13, V15) -/

/-- V7 row 3. -/
theorem test_push_recognized :
    (after (exec (.push 0x8D) (beforeMarker .scan))).map
      (fun t => (t.w0, t.w1, t.w2, t.acc, t.out.map recordWord)) =
      some (0xE2, 0x80, 0x8D, [true], [0x118D]) := by decide

/-- V7 row 7, ACC_CAP = 2: CAUSE = 15, and the window stays. -/
theorem test_push_overflow :
    (after (exec (.push 0x8D)
      { beforeMarker .scan with acc := [true, false], config := ⟨some 2⟩ })).map
      (fun t => (t.causeByte, t.w1, t.w2, t.out.map recordWord)) =
      some (0x15, 0xE2, 0x80, [0xF500]) := by decide

/-- V5 rows 2, 3 and 8: a third byte that is no indicator, without and with ANY3, and the seed zeros
with P1 = P2 = 0x00. -/
theorem test_recognizes :
    (inPhase .scan).recognizes 0xE2 0x80 0x41 = false ∧
    { inPhase .scan with any3 := true }.recognizes 0xE2 0x80 0x41 = true ∧
    { inPhase .idle with p1 := 0x00, p2 := 0x00, ia := 0x31 }.recognizes 0x00 0x00 0x31 = true := by
  decide

/-- V8 row 2. -/
theorem test_end_fail :
    (after (exec (.endStream true) (inPhase .idle))).map
      (fun t => (t.phase, t.srcFail, t.out)) = some (.dump, true, []) := by decide

/-- V13: `WRC IA, 0x8B` in SCAN is CFGLOCK, and IA stays. -/
theorem test_wrc_locked :
    (after (exec (.wrc 2 0x8B) (inPhase .scan))).map
      (fun t => (t.causeByte, t.badh, t.badl, t.ia)) = some (0x13, 0x32, 0x8B, 0x8C) := by decide

/-- V13: `WRC KEY, 0` in SCAN is ROREG before CFGLOCK. -/
theorem test_wrc_readonly :
    (after (exec (.wrc 12 0) (inPhase .scan))).map (fun t => t.causeByte) = some 0x16 := by decide

/-- V13: `RDR STATUS` in DONE after `END 1`. -/
theorem test_rdr_status :
    (after (exec (.rdr 5) { inPhase .done with srcFail := true })).map
      (fun t => t.out.map recordWord) = some [0x750E] := by decide

/-- V15: `RDR CAUSE` in FAULT. -/
theorem test_rdr_cause :
    (after (exec (.rdr 6) faulted)).map (fun t => t.out.map recordWord) = some [0x7613] := by decide

/-- V13: NOP in IDLE does not start the stream. -/
theorem test_nop : (after (exec .nop (inPhase .idle))).map (fun t => t.phase) = some .idle := by
  decide

/-! ## Sequencer operations (V10, V11, V12) -/

theorem test_dumpb :
    (after (exec .dumpb { dumping with idx := 1 })).map (fun t => (t.idx, t.out.map recordWord)) =
      some (2, [0x2001]) := by decide

theorem test_dumpx :
    (after (exec .dumpx { dumping with idx := 11 })).map (fun t => (t.idx, t.phase)) =
      some (0, .pack) := by decide

theorem test_packb :
    (after (exec .packb { dumping with phase := .pack })).map
      (fun t => (t.rb, t.out.map recordWord)) = some ([0x62], [0x3062]) := by decide

theorem test_packx :
    (after (exec .packx { dumping with phase := .pack, rb := [0x62], key := 0x07 })).map
      (fun t => (t.key, t.phase)) = some (0x00, .xorh) := by decide

theorem test_keyh :
    (after (exec .keyh { xoring with phase := .xorh })).map
      (fun t => (t.idx, t.phase, t.out.map recordWord)) = some (0, .xorb, [0x402A]) := by decide

theorem test_xorb :
    (after (exec .xorb { xoring with idx := 1 })).map (fun t => (t.idx, t.out.map recordWord)) =
      some (2, [0x5069]) := by decide

theorem test_keyn :
    (after (exec .keyn xoring)).map (fun t => (t.key, t.phase)) = some (0x2B, .xorh) := by decide

theorem test_fin :
    (after (exec .fin { xoring with key := 0xFF })).map
      (fun t => (t.key, t.phase, t.out.map recordWord)) = some (0xFF, .done, [0x6000]) := by decide

/-! ## Steps -/

/-- V15: `PUSH 0x42` in FAULT is discarded, and leaves the port. -/
theorem test_step_discard :
    (after (step { faulted with cmd := [0x1042] })).map (fun t => (t.w2, t.cmd, t.out)) =
      some (0x41, [], []) := by decide

/-- R132: `.word 0x1141` in DONE is ILLFLD, not SEQ. -/
theorem test_step_priority :
    (after (step { inPhase .done with cmd := [0x1141] })).map (fun t => t.causeByte) =
      some 0x62 := by decide

/-- R154: a reset in a busy phase leaves the held word at the port, to be accepted in IDLE. -/
theorem test_step_reset_busy :
    (after (step { xoring with cmd := [0x4500], resets := [0, 3] })).map
      (fun t => (t.phase, t.rb, t.cmd, t.resets)) = some (.idle, [], [0x4500], [3]) := by decide

/-- R140: a word is held while the block is busy. -/
theorem test_step_hold :
    (after (step { xoring with cmd := [0x4500] })).map (fun t => (t.phase, t.cmd)) =
      some (.xorh, [0x4500]) := by decide

/-- Every table row runs as the first instruction after reset. -/
theorem test_first_instruction :
    [(16, 0x0000), (16, 0x1041), (16, 0x2001), (16, 0x328B), (16, 0x4000), (8, 0x0A), (8, 0x02),
      (8, 0x0B), (8, 0x03), (8, 0x04), (8, 0x0D), (8, 0x05), (8, 0x15)].map
      (fun x => (after (step (State.reset.withFetchWord x.1 x.2))).map
        fun t => (t.phase, t.out.map recordWord)) =
      [some (.idle, []), some (.scan, [0x1041]), some (.dump, []), some (.idle, []),
        some (.idle, [0x70E2]), some (.dump, [0x2000]), some (.pack, []), some (.pack, [0x3000]),
        some (.xorh, []), some (.xorb, [0x4000]), some (.xorb, [0x5000]), some (.xorh, []),
        some (.done, [0x6000])] := by decide

/-! ## The decode function (P1, V18) -/

theorem test_windows_of_scenario :
    (decodeStream ⟨0xE2, 0x80, 0x8C, 0x8D, false⟩ [0x41, 0xE2, 0x80, 0x8C, 0x42]).windows =
      [(0, 0, 0x41), (0, 0x41, 0xE2), (0x41, 0xE2, 0x80), (0xE2, 0x80, 0x8C),
        (0x80, 0x8C, 0x42)] := by decide

theorem test_bits_overlapping :
    runBits ⟨0xAA, 0xAA, 0x00, 0x01, true⟩ [0xAA, 0xAA, 0xAA, 0xAA] = [false, false] := by decide

theorem test_packed_bytes : packedBytes dumping.acc = [0x62] := by decide

theorem test_sequencer_steps : sequencerSteps 19 = 1047 ∧ sequencerSteps 0 = 514 := by decide

/-! ## Witnesses: concrete states that meet the hypotheses of each statement -/

theorem witness_reset_event : ∃ s : State, s.resets = 0 :: [5] ∧ s.phase = .xorb :=
  ⟨{ xoring with resets := [0, 5] }, by decide⟩

theorem witness_step_runs_command :
    ∃ s : State, s.resets.head? ≠ some 0 ∧ isBusy s.phase = false ∧ s.cmd = 0x10E2 :: [0x2000] ∧
      decodeCommand 0x10E2 = .ok (.push 0xE2) :=
  ⟨{ inPhase .scan with cmd := [0x10E2, 0x2000], resets := [4] }, by decide⟩

theorem witness_step_runs_selected :
    ∃ s : State, s.resets.head? ≠ some 0 ∧ decodeSelect s.select = some .dumpb :=
  ⟨dumping, by decide⟩

theorem witness_step_waits :
    ∃ s : State, s.resets.head? ≠ some 0 ∧ isBusy s.phase = false ∧ s.cmd = [] :=
  ⟨{ inPhase .done with resets := [1] }, by decide⟩

theorem witness_illegal_word :
    ∃ s : State, s.resets.head? ≠ some 0 ∧
      (s.phase = .idle ∨ s.phase = .scan ∨ s.phase = .done) ∧ s.cmd = 0x5000 :: [0x0000] :=
  ⟨{ inPhase .done with cmd := [0x5000, 0x0000] }, by decide⟩

/-- The code of the fault that the word `w` raises in SCAN. -/
def codeOfWord (w : Word) : Option (Option FaultCode) :=
  (after (step { inPhase .scan with cmd := [w] })).map (fun t => t.code)

/-- The clauses of IllegalWordTakesFault at the ends of their ranges: reserved opcodes. -/
theorem witness_illegal_opcodes :
    [0x5000, 0xFFFF].map codeOfWord = [some (some .illop), some (some .illop)] := by decide

/-- The same: must-be-zero fields. -/
theorem witness_illegal_fields :
    [0x0001, 0x0FFF, 0x1100, 0x1FFF, 0x2002, 0x2FFF, 0x4001, 0x4FFF].map codeOfWord =
      List.replicate 8 (some (some .illfld)) := by decide

/-- The same: reserved register indices and reserved CTL bits. -/
theorem witness_reserved_fields :
    [0x3D00, 0x3FFF, 0x4D00, 0x4F00, 0x3402, 0x34FF].map codeOfWord =
      List.replicate 6 (some (some .illfld)) := by decide

theorem witness_fault_phase :
    ∃ s : State, s.resets.head? ≠ some 0 ∧ s.phase = .fault ∧ s.cmd = 0x4C00 :: [] :=
  ⟨{ faulted with cmd := [0x4C00] }, by decide⟩

/-- The clauses of FaultPhaseTreatsWords where they meet: NOP, the last register, the first reserved
index, a malformed RDR. -/
theorem witness_fault_phase_clauses :
    ([0x0000, 0x4C00, 0x4D00, 0x4501].map
      fun w => (after (step { faulted with cmd := [w] })).map (fun t => t.out.map recordWord)) =
      [some [], some [0x7C00], some [], some []] := by decide

theorem witness_only_reset_leaves_fault :
    ∃ s t : State, s.resets.head? ≠ some 0 ∧ s.phase = .fault ∧ step s = .next t :=
  ⟨faulted, _, by decide, by decide, rfl⟩

theorem witness_busy_hold : isBusy xoring.phase = true ∧ xoring.resets.head? ≠ some 0 := by decide

theorem witness_unselected : decodeSelect (inPhase .idle).select ≠ some .fin := by decide

theorem witness_push_recognized :
    ∃ s : State, (s.phase = .idle ∨ s.phase = .scan) ∧
      (s.w1 = s.p1 ∧ s.w2 = s.p2 ∧ (s.any3 = true ∨ 0x8C = s.ia ∨ 0x8C = s.ib)) ∧
      s.config.accCap ≠ some s.acc.length :=
  ⟨{ beforeMarker .scan with config := ⟨some 1⟩ }, by decide⟩

theorem witness_push_unrecognized :
    ∃ s : State, (s.phase = .idle ∨ s.phase = .scan) ∧
      ¬ (s.w1 = s.p1 ∧ s.w2 = s.p2 ∧ (s.any3 = true ∨ 0x41 = s.ia ∨ 0x41 = s.ib)) :=
  ⟨beforeMarker .scan, by decide⟩

theorem witness_push_full :
    ∃ s : State, (s.phase = .idle ∨ s.phase = .scan) ∧
      (s.w1 = s.p1 ∧ s.w2 = s.p2 ∧ (s.any3 = true ∨ 0x8D = s.ia ∨ 0x8D = s.ib)) ∧
      s.config.accCap = some s.acc.length :=
  ⟨{ beforeMarker .scan with acc := [true, false], config := ⟨some 2⟩ }, by decide⟩

theorem witness_phases :
    (inPhase .idle).phase = .idle ∧ (inPhase .scan).phase = .scan ∧
      (inPhase .done).phase = .done ∧ faulted.phase = .fault := by decide

/-- Words that meet the last clauses of the rules of NOP, PUSH, END and RDR. -/
theorem witness_rejected_words :
    ((0x0001 : Word).toNat / 4096 = 0 ∧ (0x0001 : Word).toNat ≠ 0) ∧
    ((0x1100 : Word).toNat / 4096 = 1 ∧ (0x1100 : Word).toNat / 256 ≠ 16) ∧
    ((0x2002 : Word).toNat / 4096 = 2 ∧ (0x2002 : Word).toNat / 2 ≠ 0x1000) ∧
    ((0x4001 : Word).toNat / 4096 = 4 ∧ (0x4001 : Word).toNat % 256 ≠ 0) := by decide

theorem witness_busy_command :
    isBusy xoring.phase = true ∧ encode (.push 0x41) = .cmd16 0x1041 := by decide

theorem witness_wrc_idle : (inPhase .idle).phase = .idle ∧ (0x01 : Byte) = 0x01 := by decide

/-- The fault clauses of WrcFollowsItsRule at the ends of their ranges, in SCAN. -/
theorem witness_wrc_fault_clauses :
    ([(13, 0xFF), (15, 0x00), (4, 0x02), (4, 0xFF), (5, 0x00), (12, 0xFF), (0, 0x00), (3, 0xFF),
      (4, 0x01)].map
      fun x : RegIndex × Byte => (after (exec (.wrc x.1 x.2) (inPhase .scan))).map
        (fun t => t.causeByte)) =
      [some 0x12, some 0x12, some 0x12, some 0x12, some 0x16, some 0x16, some 0x13, some 0x13,
        some 0x13] := by decide

/-- RDR at the first register and at the last. -/
theorem witness_rdr :
    ∃ s : State, isBusy s.phase = false ∧
      [s.p1, s.p2, s.ia, s.ib, 0#7 ++ BitVec.ofBool s.any3,
        0#4 ++ BitVec.ofBool s.srcFail ++ phaseBits s.phase,
        0#1 ++ phaseBits s.fphase ++ codeBits s.code,
        s.badh, s.badl, s.w0, s.w1, s.w2, s.key][(12 : RegIndex).toNat]? = some 0xFF :=
  ⟨{ inPhase .done with key := 0xFF }, by decide⟩

theorem witness_rdr_reserved :
    13 ≤ (13 : RegIndex).toNat ∧ (inPhase .done).phase = .done ∧ faulted.phase = .fault := by decide

theorem witness_wrc_then_rdr :
    (inPhase .idle).phase = .idle ∧
      ((3 : RegIndex).toNat ≤ 3 ∨ (3 : RegIndex) = 4 ∧ (0xFF : Byte).toNat ≤ 1) ∧
      ((4 : RegIndex).toNat ≤ 3 ∨ (4 : RegIndex) = 4 ∧ (0x01 : Byte).toNat ≤ 1) := by decide

theorem witness_dumpb : ∃ s : State, s.phase = .dump ∧ s.acc[s.idx]? = some true :=
  ⟨{ dumping with idx := 10 }, by decide⟩

theorem witness_dumpx : ∃ s : State, s.phase = .dump ∧ s.idx = s.acc.length :=
  ⟨{ dumping with idx := 11 }, by decide⟩

theorem witness_packb : ∃ s : State, s.phase = .pack ∧ s.rb.length < s.acc.length / 8 :=
  ⟨{ dumping with phase := .pack }, by decide⟩

theorem witness_packx : ∃ s : State, s.phase = .pack ∧ s.rb.length = s.acc.length / 8 :=
  ⟨{ dumping with phase := .pack, rb := [0x62] }, by decide⟩

theorem witness_keyh : (inPhase .xorh).phase = .xorh := rfl

theorem witness_xorb : ∃ s : State, s.phase = .xorb ∧ s.rb[s.idx]? = some 0x43 :=
  ⟨{ xoring with idx := 1 }, by decide⟩

theorem witness_keyn : ∃ s : State, s.phase = .xorb ∧ s.idx = s.rb.length ∧ s.key ≠ 0xFF :=
  ⟨{ xoring with key := 0xFE }, by decide⟩

theorem witness_fin : ∃ s : State, s.phase = .xorb ∧ s.idx = s.rb.length ∧ s.key = 0xFF :=
  ⟨{ xoring with key := 0xFF }, by decide⟩

theorem witness_fault_entry_of_step :
    ∃ s t : State, s.resets.head? ≠ some 0 ∧ s.phase ≠ .fault ∧ step s = .next t ∧
      t.phase = .fault :=
  ⟨{ inPhase .scan with cmd := [0x5000] }, _, by decide, by decide, rfl, by decide⟩

theorem witness_fault_entry :
    ∃ s t : State, exec (.wrc 0 0) s = .next t ∧ s.phase ≠ .fault ∧ t.phase = .fault :=
  ⟨inPhase .scan, _, rfl, by decide, by decide⟩

theorem witness_frame_rdr :
    ∃ s t : State, exec (.rdr 0) s = .next t ∧ (t.phase = .fault → s.phase = .fault) :=
  ⟨inPhase .scan, _, rfl, by decide⟩

theorem witness_frame_push :
    ∃ s t : State, exec (.push 0x8D) s = .next t ∧ (t.phase = .fault → s.phase = .fault) ∧
      t.acc ≠ s.acc :=
  ⟨beforeMarker .scan, _, rfl, by decide, by decide⟩

theorem witness_frame_end :
    ∃ s t : State, exec (.endStream true) s = .next t ∧ (t.phase = .fault → s.phase = .fault) :=
  ⟨inPhase .scan, _, rfl, by decide⟩

theorem witness_frame_wrc :
    ∃ s t : State, exec (.wrc 4 1) s = .next t ∧ (t.phase = .fault → s.phase = .fault) :=
  ⟨inPhase .idle, _, rfl, by decide⟩

theorem witness_frame_nonstoring : ∃ s t : State, exec .keyn s = .next t := ⟨xoring, _, rfl⟩

theorem witness_frame_packb : ∃ s t : State, exec .packb s = .next t ∧ t.rb ≠ s.rb :=
  ⟨{ dumping with phase := .pack }, _, rfl, by decide⟩

theorem witness_emitted :
    ∃ s t : State, exec .fin s = .next t ∧ t.out = s.out ++ [.done] :=
  ⟨{ xoring with key := 0xFF }, _, rfl, by decide⟩

theorem witness_one_meaning : decodeCommand 0x3D07 = .ok (.wrc 13 7) := by decide

theorem witness_pattern_hit :
    (⟨"RDR", 0x4000, 0xF0FF⟩ : Row 16) ∈ commandRows ∧
      (⟨"RDR", 0x4000, 0xF0FF⟩ : Row 16).hits 0x4F00 = true := by decide

/-- A run in SCAN after `PUSH 0x8D` completed a marker: V7 row 3 with the log of the three bytes. -/
def scanned : State :=
  { inPhase .scan with
    w0 := 0xE2, w1 := 0x80, w2 := 0x8D, acc := [true]
    out := [.trace 0xE2 true, .reg 0 0xE2, .trace 0x80 true, .trace 0x8D true] }

theorem witness_invariant : scanned.Inv where
  bitCnt_le := by decide
  byteCnt_le := by decide
  bytes_phase := fun h => absurd h (by decide)
  packed := by simp [State.faultedFrom, scanned, inPhase]
  idle_fresh := by decide
  code_iff := by decide
  idx_dump := by decide
  idx_xorb := by decide
  done_key := by decide
  fault_phase := by decide
  no_fault_record := by decide

theorem witness_logInvariant : scanned.LogInv where
  idle_untraced := by decide
  acc_bits := by decide
  rb_bytes := by decide
  window := by decide
  log := by decide

/-- `scanned` meets both invariants, and has not completed: its log holds no DONE record. -/
theorem witness_not_complete : Record.done ∉ scanned.out ∧ ¬ scanned.Complete := by
  simp [scanned, inPhase, State.Complete]

theorem witness_step_of_scanned :
    ∃ t, step scanned = .next t ∧ Memory.wf scanned = true ∧ scanned.resets.head? ≠ some 0 ∧
      scanned.phase ≠ .idle :=
  ⟨_, rfl, by decide, by decide, by decide⟩

/-- Both clauses of SrcFailReadOnlyByRdr: END in SCAN writes SRCFAIL, END in DONE does not. -/
theorem witness_srcFail :
    Instr.endStream true ≠ .rdr 5 ∧ (∃ g, Instr.endStream true = .endStream g) ∧
      (inPhase .scan).phase = .scan ∧
      ¬ ((inPhase .done).phase = .idle ∨ (inPhase .done).phase = .scan) := by
  simp [inPhase]

theorem witness_indicators :
    (∀ r v, Instr.push 0x8D ≠ .wrc r v) ∧ Instr.push 0x8D ≠ .rdr 2 ∧ Instr.push 0x8D ≠ .rdr 3 := by
  simp

/-- Both clauses of AccReadMostSignificantFirst where they meet: the last written bit and one more. -/
theorem witness_acc_read : 3 + 8 ≤ dumping.acc.length ∧ dumping.acc.length < 4 + 8 := by decide

theorem witness_dump_phase :
    dumping.phase = .dump ∧ dumping.idx ≤ dumping.acc.length ∧ dumping.resets = [] := by decide

theorem witness_pack_phase :
    ∃ s : State, s.phase = .pack ∧ s.rb.length ≤ s.acc.length / 8 ∧ s.resets = [] :=
  ⟨{ dumping with phase := .pack }, by decide⟩

theorem witness_key_loop : ∃ s : State, s.phase = .xorh ∧ s.resets = [] :=
  ⟨{ xoring with phase := .xorh }, by decide⟩

/-- A plain run with WRC, NOP and RDR between its commands, and one word held after its END. -/
theorem witness_plain_run :
    ∃ (s : State) (conf scan : List PlainCommand), s.Fresh ∧
      s.cmd = (conf ++ scan).map PlainCommand.word ++ wordEnd false :: [0x4C00] ∧
      (∀ x ∈ conf ++ scan, x.allowed = true) ∧
      (∀ x ∈ conf, x.pushed = none) ∧ (∀ x ∈ scan, x.written = none) ∧
      withinCap s.config.accCap
        (runBits (s.pattern.configure conf) (streamOf scan)).length = true ∧
      runBits (s.pattern.configure conf) (streamOf scan) = [true] :=
  ⟨{ inPhase .idle with
      cmd := [0x338F, 0x4300, 0x0000, 0x10E2, 0x1080, 0x4A00, 0x108F, 0x0000, 0x2000, 0x4C00]
      config := ⟨some 1⟩ },
    [.wrc 3 0x8F, .rdr 3, .nop], [.push 0xE2, .push 0x80, .rdr 10, .push 0x8F, .nop],
    by simp [State.Fresh, inPhase, State.reset], by decide, by decide, by decide, by decide,
    by decide, by decide⟩

theorem witness_overflow_run :
    ∃ s : State, s.Fresh ∧ s.cmd = [0xE2, 0x80].map wordPush ++ wordPush 0x8D :: [0x2000] ∧
      s.config.accCap = some (runBits s.pattern [0xE2, 0x80]).length ∧
      recognizedAt s.pattern ([0xE2, 0x80] ++ [0x8D]) 2 = true :=
  ⟨{ inPhase .idle with cmd := [0x10E2, 0x1080, 0x108D, 0x2000], config := ⟨some 0⟩ },
    by simp [State.Fresh, inPhase, State.reset], by decide, by decide, by decide⟩

end Sys2Proof.Tests
end

section
/-! ## The encodings of 30_encoding.md

The settled statements of the encoding family: the select word (R66, R67), the opcode map (R61, R62),
the output records (R69) and the pseudo-commands (R71). -/

namespace Sys2Proof.Machine

/-! ### What the sequencer selects, phase by phase (R67) -/

theorem decodeSelect_of_dump {s : State} (h : s.phase = .dump) :
    decodeSelect s.select = if s.idx < s.acc.length then some .dumpb else some .dumpx := by
  rw [decodeSelect_select, State.more, h]
  by_cases hm : s.idx < s.acc.length <;> simp [hm, selectTable]

theorem decodeSelect_of_pack {s : State} (h : s.phase = .pack) :
    decodeSelect s.select =
      if s.rb.length < s.acc.length / 8 then some .packb else some .packx := by
  rw [decodeSelect_select, State.more, h]
  by_cases hm : s.rb.length < s.acc.length / 8 <;> simp [hm, selectTable]

theorem decodeSelect_of_xorh {s : State} (h : s.phase = .xorh) :
    decodeSelect s.select = some .keyh := by
  rw [decodeSelect_select, h, selectTable]

theorem decodeSelect_of_xorb {s : State} (h : s.phase = .xorb) :
    decodeSelect s.select =
      if s.idx < s.rb.length then some .xorb
      else if s.key = 0xFF then some .fin else some .keyn := by
  rw [decodeSelect_select, State.more, h]
  by_cases hm : s.idx < s.rb.length <;> simp [hm, selectTable, State.klast]

theorem decodeSelect_of_not_busy {s : State} (h : isBusy s.phase = false) :
    decodeSelect s.select = none := by
  rw [decodeSelect_select]
  cases hp : s.phase <;> simp_all [isBusy, selectTable]

/-- Settles O11: in each phase the select word is read through that phase's equation. -/
theorem sequencerSelectsByTable : Obligations.SequencerSelectsByTable := by
  intro s
  cases hp : s.phase with
  | dump => rw [decodeSelect_of_dump hp]; split <;> simp [*]
  | pack => rw [decodeSelect_of_pack hp]; split <;> simp [*]
  | xorh => simp [decodeSelect_of_xorh hp]
  | xorb =>
    rw [decodeSelect_of_xorb hp]
    by_cases hm : s.idx < s.rb.length
    · simp [hm]
    · by_cases hk : s.key = 0xFF#8 <;> simp [hm, hk]
  | idle | scan | done | fault => simp [decodeSelect_of_not_busy (s := s) (by simp [hp, isBusy])]

/-! ### Words cut into adjacent fields -/

theorem append_eq_append_iff {m n : Nat} {a a' : BitVec m} {b b' : BitVec n} :
    a ++ b = a' ++ b' ↔ a = a' ∧ b = b' := by
  refine ⟨fun h => ⟨?_, ?_⟩, fun ⟨ha, hb⟩ => ha ▸ hb ▸ rfl⟩
  · simpa only [BitVec.extractLsb'_append_eq_left] using congrArg (BitVec.extractLsb' n m) h
  · simpa only [BitVec.extractLsb'_append_eq_right] using congrArg (BitVec.extractLsb' 0 n) h

theorem extract_append_extract (m n : Nat) (w : BitVec (m + n)) :
    w.extractLsb' n m ++ w.extractLsb' 0 n = w := by
  rw [BitVec.extractLsb'_append_extractLsb'_eq_extractLsb' (Nat.zero_add n).symm,
    BitVec.extractLsb'_eq_self]

/-- A mask and a pattern given field by field test each field on its own. -/
theorem and_append_eq_append_iff {m n : Nat} (w : BitVec (m + n)) (mh ph : BitVec m)
    (ml pl : BitVec n) :
    w &&& (mh ++ ml) = ph ++ pl ↔
      w.extractLsb' n m &&& mh = ph ∧ w.extractLsb' 0 n &&& ml = pl := by
  conv_lhs => rw [← extract_append_extract m n w, BitVec.and_append]
  exact append_eq_append_iff

/-- The same for three fields. -/
theorem and_append_append_eq_iff {l m n : Nat} (w : BitVec (l + m + n)) (mh ph : BitVec l)
    (mm pm : BitVec m) (ml pl : BitVec n) :
    w &&& (mh ++ mm ++ ml) = ph ++ pm ++ pl ↔
      w.extractLsb' (n + m) l &&& mh = ph ∧ w.extractLsb' n m &&& mm = pm ∧
        w.extractLsb' 0 n &&& ml = pl := by
  rw [and_append_eq_append_iff, ← BitVec.extractLsb'_append_extractLsb'_eq_extractLsb' rfl,
    BitVec.and_append, append_eq_append_iff, and_assoc]

theorem toNat_append_eq_add {m n : Nat} (x : BitVec m) (y : BitVec n) :
    (x ++ y).toNat = x.toNat * 2 ^ n + y.toNat := by
  rw [BitVec.toNat_append, ← Nat.shiftLeft_add_eq_or_of_lt y.isLt, Nat.shiftLeft_eq]

/-! ### The rows of the opcode map, read as conditions on fields (R61)

Each mask is cut at the borders of its fields: a field under the mask is all ones or all zeros. -/

theorem matchesNop_iff (w : Word) :
    w &&& 0xFFFF = 0x0000 ↔ opField w = 0 ∧ w.extractLsb' 0 12 = 0 := by
  have h := and_append_eq_append_iff w (.allOnes 4) 0x0#4 (.allOnes 12) 0x000#12
  simp only [BitVec.and_allOnes] at h
  exact h

theorem matchesPush_iff (w : Word) : w &&& 0xFF00 = 0x1000 ↔ opField w = 1 ∧ regField w = 0 := by
  have h := and_append_append_eq_iff w (.allOnes 4) 0x1#4 (.allOnes 4) 0x0#4 0x00#8 0x00#8
  simp only [BitVec.and_allOnes, BitVec.and_zero, and_true] at h
  exact h

theorem matchesEnd_iff (w : Word) :
    w &&& 0xFFFE = 0x2000 ↔ opField w = 2 ∧ w.extractLsb' 1 11 = 0 := by
  have h := and_append_append_eq_iff w (.allOnes 4) 0x2#4 (.allOnes 11) 0x000#11 0#1 0#1
  simp only [BitVec.and_allOnes, BitVec.and_zero, and_true] at h
  exact h

theorem matchesWrc_iff (w : Word) : w &&& 0xF000 = 0x3000 ↔ opField w = 3 := by
  have h := and_append_eq_append_iff w (.allOnes 4) 0x3#4 0x000#12 0x000#12
  simp only [BitVec.and_allOnes, BitVec.and_zero, and_true] at h
  exact h

theorem matchesRdr_iff (w : Word) : w &&& 0xF0FF = 0x4000 ↔ opField w = 4 ∧ dataField w = 0 := by
  have h := and_append_append_eq_iff w (.allOnes 4) 0x4#4 0x0#4 0x0#4 (.allOnes 8) 0x00#8
  simp only [BitVec.and_allOnes, BitVec.and_zero, true_and] at h
  exact h

theorem no_row_hits_iff (w : Word) :
    (∀ row ∈ commandRows, row.hits w = false) ↔
      ¬ (opField w = 0 ∧ w.extractLsb' 0 12 = 0) ∧ ¬ (opField w = 1 ∧ regField w = 0) ∧
      ¬ (opField w = 2 ∧ w.extractLsb' 1 11 = 0) ∧ ¬ opField w = 3 ∧
      ¬ (opField w = 4 ∧ dataField w = 0) := by
  simp only [commandRows, List.forall_mem_cons, Row.hits, beq_eq_false_iff_ne, ne_eq,
    matchesNop_iff, matchesPush_iff, matchesEnd_iff, matchesWrc_iff, matchesRdr_iff,
    List.not_mem_nil, false_implies, implies_true, and_true]

/-- Two rows whose patterns differ under both masks share no word. -/
theorem not_hits_of_disjoint {n : Nat} {a b : Row n} {w : BitVec n}
    (hd : a.disjoint b = true) (ha : a.hits w = true) : b.hits w = false := by
  simp only [Row.disjoint, bne_iff_ne, ne_eq, Row.hits, beq_iff_eq, beq_eq_false_iff_ne] at *
  intro hb
  apply hd
  rw [← ha, ← hb, BitVec.and_assoc, BitVec.and_assoc, BitVec.and_comm a.mask]

/-- "The five patterns are disjoint" (R61). -/
theorem commandRows_disjoint :
    ∀ a ∈ commandRows, ∀ b ∈ commandRows, a = b ∨ a.disjoint b = true := by
  decide

theorem commandRows_hit_unique (w : Word) :
    ∀ a ∈ commandRows, ∀ b ∈ commandRows, a.hits w = true → b.hits w = true → a = b := by
  intro a ha b hb hwa hwb
  rcases commandRows_disjoint a ha b hb with h | h
  · exact h
  · exact absurd hwb (by simp [not_hits_of_disjoint h hwa])

/-! ### The decoder, one equation per opcode (R64) -/

theorem decodeCommand_of_op_zero {w : Word} (h : opField w = 0) :
    decodeCommand w = whenZero (w.extractLsb' 0 12 == 0) .nop := by
  simp [decodeCommand, h]

theorem decodeCommand_of_op_one {w : Word} (h : opField w = 1) :
    decodeCommand w = whenZero (regField w == 0) (.push (dataField w)) := by
  simp [decodeCommand, h]

theorem decodeCommand_of_op_two {w : Word} (h : opField w = 2) :
    decodeCommand w = whenZero (w.extractLsb' 1 11 == 0) (.endStream (w.getLsbD 0)) := by
  simp [decodeCommand, h]

theorem decodeCommand_of_op_three {w : Word} (h : opField w = 3) :
    decodeCommand w = .ok (.wrc (regField w) (dataField w)) := by
  simp [decodeCommand, h]

theorem decodeCommand_of_op_four {w : Word} (h : opField w = 4) :
    decodeCommand w = whenZero (dataField w == 0) (.rdr (regField w)) := by
  simp [decodeCommand, h]

theorem decodeCommand_of_reserved {w : Word} (h : 5 ≤ (opField w).toNat) :
    decodeCommand w = .error .reservedOpcode := by
  simp [decodeCommand, h]

theorem opField_cases (w : Word) :
    opField w = 0 ∨ opField w = 1 ∨ opField w = 2 ∨ opField w = 3 ∨ opField w = 4 ∨
      5 ≤ (opField w).toNat := by
  generalize opField w = op
  revert op; decide

theorem opField_ne_of_reserved {w : Word} (h : 5 ≤ (opField w).toNat) :
    opField w ≠ 0#4 ∧ opField w ≠ 1#4 ∧ opField w ≠ 2#4 ∧ opField w ≠ 3#4 ∧ opField w ≠ 4#4 := by
  refine ⟨?_, ?_, ?_, ?_, ?_⟩ <;> intro e <;> simp [e] at h

@[simp] theorem whenZero_eq_ok_iff (clear : Bool) (i j : Instr) :
    whenZero clear i = .ok j ↔ clear = true ∧ i = j := by
  cases clear <;> simp [whenZero]

@[simp] theorem whenZero_eq_error_iff (clear : Bool) (i : Instr) (e : BadWord) :
    whenZero clear i = .error e ↔ clear = false ∧ e = .mustBeZero := by
  cases clear <;> simp [whenZero, eq_comm]

/-! ### The operands as the unsigned integers their bits spell (R62) -/

theorem opField_toNat (w : Word) : (opField w).toNat = w.toNat / 4096 := by
  simp [opField, BitVec.extractLsb'_toNat, Nat.shiftRight_eq_div_pow]; omega

theorem regField_eq_ofNat (w : Word) : regField w = BitVec.ofNat 4 (w.toNat / 256) := by
  apply BitVec.eq_of_toNat_eq
  simp [regField, BitVec.extractLsb'_toNat, Nat.shiftRight_eq_div_pow]

theorem dataField_eq_ofNat (w : Word) : dataField w = BitVec.ofNat 8 w.toNat := by
  apply BitVec.eq_of_toNat_eq
  simp [dataField, BitVec.extractLsb'_toNat]

theorem getLsbD_zero_eq_decide (w : Word) : w.getLsbD 0 = decide (w.toNat % 2 = 1) := by
  simp [BitVec.getLsbD, Nat.testBit_zero]

/-- Settles O38: by the opcode; the equation of that opcode reduces the decoder, and the mask tests
become the same field tests. -/
theorem decoderFollowsOpcodeMap : Obligations.DecoderFollowsOpcodeMap := by
  intro w
  rw [matchesNop_iff, matchesPush_iff, matchesEnd_iff, matchesWrc_iff, matchesRdr_iff,
    no_row_hits_iff, ← regField_eq_ofNat, ← dataField_eq_ofNat, ← getLsbD_zero_eq_decide,
    ← opField_toNat]
  rcases opField_cases w with h | h | h | h | h | h
  · simpa [decodeCommand_of_op_zero h, h] using commandRows_hit_unique w
  · simpa [decodeCommand_of_op_one h, h] using commandRows_hit_unique w
  · simpa [decodeCommand_of_op_two h, h] using commandRows_hit_unique w
  · simpa [decodeCommand_of_op_three h, h] using commandRows_hit_unique w
  · simpa [decodeCommand_of_op_four h, h] using commandRows_hit_unique w
  · simpa [decodeCommand_of_reserved h, opField_ne_of_reserved h, h] using
      commandRows_hit_unique w

/-! ### Output records (R69) -/

theorem recordWord_trace (b : Byte) (m : Bool) :
    (recordWord (.trace b m)).toNat = 0x1000 + 256 * m.toNat + b.toNat := by
  cases m
  · exact toNat_append_eq_add (0x1#4 ++ 0#3 ++ 0#1) b
  · exact toNat_append_eq_add (0x1#4 ++ 0#3 ++ 1#1) b

theorem recordWord_bit (x : BitVec 1) : (recordWord (.bit x)).toNat = 0x2000 + x.toNat :=
  toNat_append_eq_add (0x2#4 ++ 0#4 ++ 0#7) x

theorem recordWord_rbyte (v : Byte) : (recordWord (.rbyte v)).toNat = 0x3000 + v.toNat :=
  toNat_append_eq_add (0x3#4 ++ 0#4) v

theorem recordWord_keyrec (k : Byte) : (recordWord (.keyrec k)).toNat = 0x4000 + k.toNat :=
  toNat_append_eq_add (0x4#4 ++ 0#4) k

theorem recordWord_cand (c : Byte) : (recordWord (.cand c)).toNat = 0x5000 + c.toNat :=
  toNat_append_eq_add (0x5#4 ++ 0#4) c

theorem recordWord_reg (r : RegIndex) (v : Byte) :
    (recordWord (.reg r v)).toNat = 0x7000 + 256 * r.toNat + v.toNat := by
  have hw : (recordWord (.reg r v)).toNat = (0x7#4 ++ r).toNat * 2 ^ 8 + v.toNat :=
    toNat_append_eq_add (0x7#4 ++ r) v
  have hr : (0x7#4 ++ r).toNat = 7 * 2 ^ 4 + r.toNat := toNat_append_eq_add 0x7#4 r
  omega

/-- The "kind" column of R69. -/
def Record.kind : Record → Nat
  | .trace _ _ => 1
  | .bit _ => 2
  | .rbyte _ => 3
  | .keyrec _ => 4
  | .cand _ => 5
  | .done => 6
  | .reg _ _ => 7
  | .fault _ => 15

/-- Bits 15:12 of a record's word are its kind (R68). -/
theorem recordWord_div_eq_kind (r : Record) : (recordWord r).toNat / 4096 = r.kind := by
  cases r with
  | trace b m => have := m.toNat_lt; rw [recordWord_trace, Record.kind]; omega
  | bit x => rw [recordWord_bit, Record.kind]; omega
  | rbyte v => rw [recordWord_rbyte, Record.kind]; omega
  | keyrec k => rw [recordWord_keyrec, Record.kind]; omega
  | cand c => rw [recordWord_cand, Record.kind]; omega
  | done => rfl
  | reg r v => rw [recordWord_reg, Record.kind]; omega
  | fault c => cases c <;> rfl

theorem Record.kind_mem (r : Record) : r.kind ∈ [1, 2, 3, 4, 5, 6, 7, 15] := by
  cases r <;> simp [Record.kind]

/-! ### Which record an operation emits (R69, "emitted by") -/

/-- A command that emits one record takes its fault, or passes its check and emits by its effect. -/
theorem runCommand_record {w : Word} {f : InFault} {check : Option FaultCode}
    {effect : State → State} {s t : State} {r : Record}
    (h : runCommand w f check effect s = .next t) (ho : t.out = s.out ++ [r]) :
    (∃ c, check = some c ∧ r = .fault c) ∨ (check = none ∧ (effect s).out = s.out ++ [r]) := by
  rcases runCommand_cases w f check effect s with ⟨he, -⟩ | ⟨c, hc, he, -⟩ | ⟨hc, he, -⟩ <;>
    obtain rfl := Host.Outcome.next.inj (he.symm.trans h)
  · simp at ho
  · exact .inl ⟨c, hc, by simpa [State.raise, eq_comm] using ho⟩
  · exact .inr ⟨hc, ho⟩

theorem State.pushEffect_out (s : State) (b : Byte) :
    (s.pushEffect b).out = s.out ++ [.trace b (s.mflag b)] := by
  unfold State.pushEffect; split <;> simp

theorem State.writeReg_out (s : State) (r : RegIndex) (v : Byte) :
    (s.writeReg r v).out = s.out := by
  unfold State.writeReg; split <;> rfl

theorem State.rdrEffect_out (s : State) (r : RegIndex) :
    (s.rdrEffect r).out = s.out ++ (s.readReg r).toList.map (.reg r) := by
  unfold State.rdrEffect; split <;> simp [*]

/-- An operation that emits one record emits one of its kinds. -/
theorem exec_record_kind {i : Instr} {s t : State} {r : Record} (h : exec i s = .next t)
    (ho : t.out = s.out ++ [r]) : r.kind ∈ emittedKinds i := by
  cases i with
  | nop =>
    rw [exec, execNop] at h
    rcases runCommand_record h ho with ⟨c, hc, -⟩ | ⟨-, he⟩
    · simp at hc
    · simp at he
  | push b =>
    rw [exec, execPush] at h
    rcases runCommand_record h ho with ⟨c, -, rfl⟩ | ⟨-, he⟩
    · simp [Record.kind, emittedKinds]
    · obtain rfl : Record.trace b (s.mflag b) = r := by simpa [State.pushEffect_out] using he
      simp [Record.kind, emittedKinds]
  | endStream f =>
    rw [exec, execEndStream] at h
    rcases runCommand_record h ho with ⟨c, -, rfl⟩ | ⟨-, he⟩
    · simp [Record.kind, emittedKinds]
    · simp at he
  | wrc q v =>
    rw [exec, execWrc] at h
    rcases runCommand_record h ho with ⟨c, -, rfl⟩ | ⟨-, he⟩
    · simp [Record.kind, emittedKinds]
    · simp [State.writeReg_out] at he
  | rdr q =>
    rw [exec, execRdr] at h
    rcases runCommand_record h ho with ⟨c, -, rfl⟩ | ⟨-, he⟩
    · simp [Record.kind, emittedKinds]
    · obtain ⟨v, -, rfl⟩ : ∃ v, s.readReg q = some v ∧ Record.reg q v = r := by
        simpa [State.rdrEffect_out, List.map_eq_cons_iff] using he
      simp [Record.kind, emittedKinds]
  | dumpb =>
    rw [exec, execDumpb] at h
    obtain ⟨x, -, rfl⟩ := withRead_next (runSelected_next h).2
    obtain rfl : Record.bit x = r := by simpa using ho
    simp [Record.kind, emittedKinds]
  | packb =>
    rw [exec, execPackb] at h
    obtain ⟨v, -, rfl⟩ := withRead_next (runSelected_next h).2
    obtain rfl : Record.rbyte v = r := by simpa using ho
    simp [Record.kind, emittedKinds]
  | xorb =>
    rw [exec, execXorb] at h
    obtain ⟨v, -, rfl⟩ := withRead_next (runSelected_next h).2
    obtain rfl : Record.cand (v ^^^ s.key) = r := by simpa using ho
    simp [Record.kind, emittedKinds]
  | keyh =>
    rw [exec, execKeyh] at h
    obtain rfl := Host.Outcome.next.inj (runSelected_next h).2
    obtain rfl : Record.keyrec s.key = r := by simpa using ho
    simp [Record.kind, emittedKinds]
  | fin =>
    rw [exec, execFin] at h
    obtain rfl := Host.Outcome.next.inj (runSelected_next h).2
    obtain rfl : Record.done = r := by simpa using ho
    simp [Record.kind, emittedKinds]
  | dumpx =>
    rw [exec, execDumpx] at h
    obtain rfl := Host.Outcome.next.inj (runSelected_next h).2
    simp at ho
  | packx =>
    rw [exec, execPackx] at h
    obtain rfl := Host.Outcome.next.inj (runSelected_next h).2
    simp at ho
  | keyn =>
    rw [exec, execKeyn] at h
    obtain rfl := Host.Outcome.next.inj (runSelected_next h).2
    simp at ho

/-- Settles O40: the words constructor by constructor, the kinds from bits 15:12 of the word. -/
theorem recordWordsOfSpec : Obligations.RecordWordsOfSpec := by
  refine ⟨recordWord_trace, recordWord_bit, recordWord_rbyte, recordWord_keyrec, recordWord_cand,
    rfl, recordWord_reg, by decide, fun r => ?_, fun i s t r h ho => ?_⟩
  · rw [recordWord_div_eq_kind]
    exact r.kind_mem
  · rw [recordWord_div_eq_kind]
    exact exec_record_kind h ho

/-! ### Pseudo-commands (R71) -/

theorem assemble_stream (bytes : List Byte) :
    assemble [.stream bytes] = assemble (bytes.map AsmLine.push) := by
  induction bytes with
  | nil => rfl
  | cons b bytes ih => simp_all [assemble, lineWords]

/-- Settles O60: STREAM by induction on its bytes, the others by their one expansion. -/
theorem pseudoCommandsExpand : Obligations.PseudoCommandsExpand := by
  intro bytes p1 p2 ia ib x
  refine ⟨assemble_stream bytes, rfl, ?_, rfl⟩
  cases x <;> rfl

end Sys2Proof.Machine
end

section
/-! ## The marker scanner of 41_marker_scanner.md

The settled statements of the scanner family: PUSH (R81 to R84) and END (R85). -/

namespace Sys2Proof.Machine

/-! ### Commands outside a busy phase -/

/-- "every other command is discarded" in FAULT (60_exceptions.md R134). -/
theorem runCommand_discarded (w : Word) (check : Option FaultCode) (effect : State → State)
    (s : State) (h : s.phase = .fault) : runCommand w .discarded check effect s = .next s := by
  simp [runCommand, h, isBusy]

/-! ### The values PUSH computes (R81 to R84) -/

theorem State.pushRecognized_iff (s : State) (b : Byte) :
    s.pushRecognized b = true ↔
      s.w1 = s.p1 ∧ s.w2 = s.p2 ∧ (s.any3 = true ∨ b = s.ia ∨ b = s.ib) := by
  simp [State.pushRecognized, State.recognizes, and_assoc, or_assoc]

theorem State.accFull_iff (s : State) :
    s.accFull = true ↔ s.config.accCap = some s.acc.length := by
  unfold State.accFull
  split
  case h_1 cap hcap => rw [hcap, beq_iff_eq, Option.some_inj, eq_comm]
  case h_2 hcap => simp [hcap]

theorem State.mflag_eq_decide (s : State) (b : Byte) :
    s.mflag b = decide (b = s.p1 ∨ b = s.p2 ∨ b = s.ia ∨ b = s.ib) := by
  rw [Bool.eq_iff_iff]
  simp [State.mflag, or_assoc]

theorem payloadBit_eq_decide (b : Byte) : payloadBit b = decide (b.toNat % 2 = 1) := by
  simp [payloadBit, BitVec.getLsbD, Nat.testBit_zero]

theorem State.pushCheck_of_done {s : State} (b : Byte) (h : s.phase = .done) :
    s.pushCheck b = some .seq := by
  simp [State.pushCheck, h]

theorem State.pushCheck_eq_accovf {s : State} {b : Byte} (h : s.phase ≠ .done)
    (hr : s.pushRecognized b = true) (hf : s.accFull = true) : s.pushCheck b = some .accovf := by
  simp [State.pushCheck, h, hr, hf]

theorem State.pushCheck_eq_none {s : State} {b : Byte} (h : s.phase ≠ .done)
    (hrf : s.pushRecognized b = true → s.accFull = false) : s.pushCheck b = none := by
  simpa [State.pushCheck, h] using hrf

theorem State.pushEffect_of_recognized {s : State} {b : Byte} (h : s.pushRecognized b = true) :
    s.pushEffect b = { s with
      w0 := s.w1, w1 := s.w2, w2 := b, acc := s.acc ++ [payloadBit b]
      phase := .scan, out := s.out ++ [.trace b (s.mflag b)] } := by
  rw [State.pushEffect, if_pos h]
  rfl

theorem State.pushEffect_of_not_recognized {s : State} {b : Byte}
    (h : ¬ s.pushRecognized b = true) :
    s.pushEffect b = { s with
      w0 := s.w1, w1 := s.w2, w2 := b
      phase := .scan, out := s.out ++ [.trace b (s.mflag b)] } := by
  rw [State.pushEffect, if_neg h]
  rfl

theorem State.ne_done_of_idle_or_scan {s : State} (h : s.phase = .idle ∨ s.phase = .scan) :
    s.phase ≠ .done := by
  rcases h with h | h <;> simp [h]

/-! ### The words of PUSH and END (R70), and what the fault registers keep of them (R133) -/

theorem wordPush_toNat (b : Byte) : (wordPush b).toNat = 0x1000 + b.toNat :=
  toNat_append_eq_add (0x1#4 ++ 0x0#4) b

theorem wordPush_eq_ofNat (b : Byte) : wordPush b = BitVec.ofNat 16 (0x1000 + b.toNat) := by
  rw [← wordPush_toNat, BitVec.ofNat_toNat, BitVec.setWidth_eq]

theorem wordPush_high (b : Byte) : (wordPush b).extractLsb' 8 8 = 0x10 :=
  BitVec.extractLsb'_append_eq_left (a := 0x1#4 ++ 0x0#4)

theorem wordPush_low (b : Byte) : (wordPush b).extractLsb' 0 8 = b :=
  BitVec.extractLsb'_append_eq_right (a := 0x1#4 ++ 0x0#4)

theorem State.raise_wordPush (s : State) (c : FaultCode) (b : Byte) :
    s.raise c (wordPush b) = { s with
      code := some c, fphase := s.phase, badh := 0x10, badl := b, phase := .fault
      out := s.out ++ [.fault c] } := by
  rw [State.raise, wordPush_high, wordPush_low]

theorem State.raise_wordEnd (s : State) (c : FaultCode) (f : Bool) :
    s.raise c (wordEnd f) = { s with
      code := some c, fphase := s.phase, badh := 0x20, badl := if f then 0x01 else 0x00
      phase := .fault, out := s.out ++ [.fault c] } := by
  cases f <;> rfl

theorem opField_eq_of_div {w : Word} {op : BitVec 4} (h : w.toNat / 4096 = op.toNat) :
    opField w = op :=
  BitVec.eq_of_toNat_eq ((opField_toNat w).trans h)

theorem decodeCommand_wordPush (b : Byte) : decodeCommand (wordPush b) = .ok (.push b) := by
  have ht := wordPush_toNat b
  have hop : opField (wordPush b) = 1 := opField_eq_of_div (by simp; omega)
  have hreg : regField (wordPush b) = 0 := by
    rw [regField_eq_ofNat, show (wordPush b).toNat / 256 = 16 by omega]
    rfl
  rw [decodeCommand_of_op_one hop, hreg, dataField, wordPush_low]
  rfl

theorem decodeCommand_push_field {w : Word} (hop : w.toNat / 4096 = 1)
    (hfield : w.toNat / 256 ≠ 16) : decodeCommand w = .error .mustBeZero := by
  have hreg : regField w ≠ 0 := by
    intro h
    have := congrArg BitVec.toNat h
    simp [regField_eq_ofNat] at this
    omega
  rw [decodeCommand_of_op_one (opField_eq_of_div hop)]
  simpa using hreg

theorem decodeCommand_end_field {w : Word} (hop : w.toNat / 4096 = 2)
    (hfield : w.toNat / 2 ≠ 0x1000) : decodeCommand w = .error .mustBeZero := by
  have hclear : w.extractLsb' 1 11 ≠ 0 := by
    intro h
    have := congrArg BitVec.toNat h
    simp [BitVec.extractLsb'_toNat, Nat.shiftRight_eq_div_pow] at this
    omega
  rw [decodeCommand_of_op_two (opField_eq_of_div hop)]
  simpa using hclear

/-! ### PUSH and END in the phases that accept commands -/

theorem exec_push_of_check_none {s : State} {b : Byte} (h : s.phase = .idle ∨ s.phase = .scan)
    (hc : s.pushCheck b = none) : exec (.push b) s = .next (s.pushEffect b) := by
  rw [exec, execPush, hc]
  exact runCommand_effect _ _ _ _ (h.imp_right .inl)

theorem exec_push_of_check_some {s : State} {b : Byte} {c : FaultCode}
    (h : s.phase = .idle ∨ s.phase = .scan ∨ s.phase = .done) (hc : s.pushCheck b = some c) :
    exec (.push b) s = .next (s.raise c (wordPush b)) := by
  rw [exec, execPush, hc]
  exact runCommand_raise _ _ _ _ _ h

theorem exec_push_of_fault {s : State} {b : Byte} (h : s.phase = .fault) :
    exec (.push b) s = .next s := by
  rw [exec, execPush, runCommand_discarded _ _ _ _ h]

theorem exec_endStream_of_fault {s : State} {f : Bool} (h : s.phase = .fault) :
    exec (.endStream f) s = .next s := by
  rw [exec, execEndStream, runCommand_discarded _ _ _ _ h]

/-- Settles O14: the check of PUSH by phase, recognition and fullness, then the effect or the fault
entry that it decides. -/
theorem pushFollowsItsRule : Obligations.PushFollowsItsRule := by
  refine ⟨fun s b => ?_, fun b => ?_, fun w => decodeCommand_push_field⟩
  · simp only [← State.pushRecognized_iff, ← State.accFull_iff, ← State.mflag_eq_decide,
      ← payloadBit_eq_decide, ← State.raise_wordPush]
    refine ⟨fun ⟨hp, hr, hf⟩ => ?_, fun ⟨hp, hr⟩ => ?_, fun ⟨hp, hr, hf⟩ => ?_, fun hp => ?_,
      exec_push_of_fault⟩
    · have hc := State.pushCheck_eq_none (b := b) (State.ne_done_of_idle_or_scan hp) fun _ =>
        Bool.eq_false_of_not_eq_true hf
      rw [exec_push_of_check_none hp hc, State.pushEffect_of_recognized hr]
    · have hc := State.pushCheck_eq_none (State.ne_done_of_idle_or_scan hp) fun h => absurd h hr
      rw [exec_push_of_check_none hp hc, State.pushEffect_of_not_recognized hr]
    · exact exec_push_of_check_some (hp.imp_right .inl)
        (State.pushCheck_eq_accovf (State.ne_done_of_idle_or_scan hp) hr hf)
    · exact exec_push_of_check_some (.inr (.inr hp)) (State.pushCheck_of_done b hp)
  · rw [← wordPush_eq_ofNat]
    exact decodeCommand_wordPush b

/-- Settles O15: END's one check fails in DONE alone; FAULT discards it. -/
theorem endFollowsItsRule : Obligations.EndFollowsItsRule := by
  refine ⟨fun s f => ⟨fun hp => ?_, fun hp => ?_, exec_endStream_of_fault⟩,
    ⟨by decide, by decide⟩, fun w => decodeCommand_end_field⟩
  · rw [exec, execEndStream, State.endCheck, if_neg (State.ne_done_of_idle_or_scan hp)]
    exact runCommand_effect _ _ _ _ (hp.imp_right .inl)
  · rw [exec, execEndStream, State.endCheck, if_pos hp, runCommand_raise _ _ _ _ _ (.inr (.inr hp)),
      State.raise_wordEnd, hp]

end Sys2Proof.Machine
end

section
/-! ## The accumulator's read-out and the packer of 42_accumulator_packer.md

The settled statements of the packer family: DUMPB (R90), DUMPX (R91), PACKB (R92, R93) and PACKX
(R94). -/

namespace Sys2Proof.Machine

/-- A one-bit read of ACC is the stored bit (20_memory.md R42). -/
theorem readAcc_one {s : State} {a : Nat} {x : Bool} (h : s.acc[a]? = some x) :
    s.readAcc a 1 = some (BitVec.ofBool x) := by
  have hle : a + 1 ≤ s.bitCnt := (List.getElem?_eq_some_iff.1 h).1
  have hread : (s.acc.drop a).take 1 = [x] := by rw [List.take_one, List.head?_drop, h]; rfl
  rw [State.readAcc, if_pos hle, hread]
  cases x <;> rfl

/-- Settles O20: a bit stored at IDX puts IDX below BITCNT, and the one-bit read is that bit. -/
theorem dumpbEmitsBit : Obligations.DumpbEmitsBit := by
  intro s x hp hx
  have hlt : s.idx < s.acc.length := (List.getElem?_eq_some_iff.1 hx).1
  have hsel : decodeSelect s.select = some .dumpb := by rw [decodeSelect_of_dump hp, if_pos hlt]
  refine ⟨hsel, ?_⟩
  rw [exec, execDumpb, runSelected_of_selected _ _ _ hsel, readAcc_one hx]
  rfl

/-- Settles O21: at `IDX = BITCNT` the dump phase has no further bit. -/
theorem dumpxEntersPack : Obligations.DumpxEntersPack := by
  intro s hp hi
  have hsel : decodeSelect s.select = some .dumpx := by
    rw [decodeSelect_of_dump hp, if_neg (by omega)]
  refine ⟨hsel, ?_⟩
  rw [exec, execDumpx, runSelected_of_selected _ _ _ hsel]
  rfl

/-- Settles O22: the selection leaves a whole group at `8 * BYTECNT`, and its read is the sum of
R92. -/
theorem packbStoresPackedByte : Obligations.PackbStoresPackedByte := by
  intro s hp hlt
  have hsel : decodeSelect s.select = some .packb := by rw [decodeSelect_of_pack hp, if_pos hlt]
  have hgroup : 8 * s.byteCnt + 8 ≤ s.acc.length := by simp only [State.byteCnt]; omega
  refine ⟨hsel, ?_⟩
  rw [exec, execPackb, runSelected_of_selected _ _ _ hsel, readAcc_group s s.byteCnt hgroup]
  rfl

/-- Settles O23: with every whole group packed the pack phase has no further byte. -/
theorem packxStartsKeyLoop : Obligations.PackxStartsKeyLoop := by
  intro s hp hn
  have hsel : decodeSelect s.select = some .packx := by
    rw [decodeSelect_of_pack hp, if_neg (by omega)]
  refine ⟨hsel, ?_⟩
  rw [exec, execPackx, runSelected_of_selected _ _ _ hsel]
  rfl

end Sys2Proof.Machine
end

section
/-! ## The key iterator of 43_xor_key_iterator.md

The settled statements of the key iterator family: KEYH (R100), XORB (R101), KEYN (R102) and FIN
(R103). -/

namespace Sys2Proof.Machine

/-- A candidate byte is the XOR of its operands as naturals (R101). -/
theorem ofNat_xor_toNat (v k : Byte) : BitVec.ofNat 8 (v.toNat ^^^ k.toNat) = v ^^^ k := by
  rw [← BitVec.toNat_xor, BitVec.ofNat_toNat, BitVec.setWidth_eq]

/-- The key's increment is the natural number after it (R102). -/
theorem ofNat_toNat_succ (k : Byte) : BitVec.ofNat 8 (k.toNat + 1) = k + 1 := by
  rw [BitVec.ofNat_add, BitVec.ofNat_toNat, BitVec.setWidth_eq]
  rfl

/-- "the 8-bit counter never wraps to 0" (R102): below the last key the increment fits a byte. -/
theorem toNat_succ_lt_of_ne_last {k : Byte} (h : k ≠ 0xFF) : k.toNat + 1 < 256 := by
  bv_omega

/-- With every byte of the group emitted, `KEY = 0xFF` alone decides between FIN and KEYN (R102,
R103). -/
theorem decodeSelect_of_group_end {s : State} (hp : s.phase = .xorb) (hi : s.idx = s.rb.length) :
    decodeSelect s.select = if s.key = 0xFF then some .fin else some .keyn := by
  rw [decodeSelect_of_xorb hp, if_neg (by omega)]

/-- Settles O24: XORH selects KEYH whatever the key and the counters are. -/
theorem keyhEmitsHeader : Obligations.KeyhEmitsHeader := by
  intro s hp
  have hsel : decodeSelect s.select = some .keyh := decodeSelect_of_xorh hp
  refine ⟨hsel, ?_⟩
  rw [exec, execKeyh, runSelected_of_selected _ _ _ hsel]
  rfl

/-- Settles O25: a byte stored at IDX puts IDX below BYTECNT, and the read of RB is that byte. -/
theorem xorbEmitsCandidate : Obligations.XorbEmitsCandidate := by
  intro s v hp hv
  have hlt : s.idx < s.rb.length := (List.getElem?_eq_some_iff.1 hv).1
  have hsel : decodeSelect s.select = some .xorb := by rw [decodeSelect_of_xorb hp, if_pos hlt]
  have hread : s.readRb s.idx = some v := hv
  refine ⟨hsel, ?_⟩
  rw [exec, execXorb, runSelected_of_selected _ _ _ hsel, hread, ofNat_xor_toNat]
  rfl

/-- Settles O26: at the end of a group whose key is not the last, the increment does not wrap. -/
theorem keynAdvancesKey : Obligations.KeynAdvancesKey := by
  intro s hp hi hk
  have hsel : decodeSelect s.select = some .keyn := by
    rw [decodeSelect_of_group_end hp hi, if_neg hk]
  refine ⟨hsel, toNat_succ_lt_of_ne_last hk, ?_⟩
  rw [exec, execKeyn, runSelected_of_selected _ _ _ hsel, ofNat_toNat_succ]
  rfl

/-- Settles O27: at the end of the group of key 0xFF no key is left, so FIN is selected. -/
theorem finCompletesRun : Obligations.FinCompletesRun := by
  intro s hp hi hk
  have hsel : decodeSelect s.select = some .fin := by
    rw [decodeSelect_of_group_end hp hi, if_pos hk]
  refine ⟨hsel, ?_⟩
  rw [exec, execFin, runSelected_of_selected _ _ _ hsel]
  rfl

end Sys2Proof.Machine
end

section
/-! ## Configuration and status of 44_config_and_status.md

The settled statements of the configuration family: WRC (R111) and RDR (R112). -/

namespace Sys2Proof.Machine

/-! ### Commands that execute in FAULT, and failing checks there (60_exceptions.md R134) -/

/-- A command that executes in FAULT has its effect wherever it is accepted and passes its checks. -/
theorem runCommand_executes (w : Word) (effect : State → State) (s : State)
    (h : isBusy s.phase = false) : runCommand w .executes none effect s = .next (effect s) := by
  simp [runCommand, h]

/-- FAULT takes no second fault. -/
theorem runCommand_of_fault_of_check (w : Word) (f : InFault) (c : FaultCode)
    (effect : State → State) (s : State) (h : s.phase = .fault) :
    runCommand w f (some c) effect s = .next s := by
  simp [runCommand, h, isBusy]

/-! ### Words made of an opcode, a register index and a data byte (R61) -/

theorem fields_toNat (op : BitVec 4) (r : RegIndex) (d : Byte) :
    (op ++ r ++ d).toNat = 4096 * op.toNat + 256 * r.toNat + d.toNat := by
  rw [toNat_append_eq_add, toNat_append_eq_add]
  omega

theorem opField_fields (op : BitVec 4) (r : RegIndex) (d : Byte) : opField (op ++ r ++ d) = op := by
  have hw := fields_toNat op r d
  exact opField_eq_of_div (by omega)

theorem regField_fields (op : BitVec 4) (r : RegIndex) (d : Byte) :
    regField (op ++ r ++ d) = r := by
  have hw := fields_toNat op r d
  rw [regField_eq_ofNat]
  apply BitVec.eq_of_toNat_eq
  rw [BitVec.toNat_ofNat]
  omega

theorem dataField_fields (op : BitVec 4) (r : RegIndex) (d : Byte) :
    dataField (op ++ r ++ d) = d :=
  BitVec.extractLsb'_append_eq_right (a := op ++ r)

theorem fields_high (op : BitVec 4) (r : RegIndex) (d : Byte) :
    (op ++ r ++ d).extractLsb' 8 8 = op ++ r :=
  BitVec.extractLsb'_append_eq_left (a := op ++ r)

theorem opcode_append_index_eq_ofNat (op : BitVec 4) (r : RegIndex) :
    op ++ r = BitVec.ofNat 8 (16 * op.toNat + r.toNat) := by
  apply BitVec.eq_of_toNat_eq
  rw [toNat_append_eq_add, BitVec.toNat_ofNat]
  omega

/-- Fault entry records the two bytes of the faulting word (60_exceptions.md R133). -/
theorem State.raise_fields (s : State) (c : FaultCode) (op : BitVec 4) (r : RegIndex) (d : Byte) :
    s.raise c (op ++ r ++ d) = { s with
      code := some c, fphase := s.phase, badh := BitVec.ofNat 8 (16 * op.toNat + r.toNat)
      badl := d, phase := .fault, out := s.out ++ [.fault c] } := by
  have hlow : (op ++ r ++ d).extractLsb' 0 8 = d := dataField_fields op r d
  rw [State.raise, fields_high, hlow, opcode_append_index_eq_ofNat]

theorem State.raise_wordWrc (s : State) (c : FaultCode) (r : RegIndex) (v : Byte) :
    s.raise c (wordWrc r v) = { s with
      code := some c, fphase := s.phase, badh := BitVec.ofNat 8 (0x30 + r.toNat), badl := v
      phase := .fault, out := s.out ++ [.fault c] } :=
  s.raise_fields c 0x3#4 r v

theorem State.raise_wordRdr (s : State) (c : FaultCode) (r : RegIndex) :
    s.raise c (wordRdr r) = { s with
      code := some c, fphase := s.phase, badh := BitVec.ofNat 8 (0x40 + r.toNat), badl := 0x00
      phase := .fault, out := s.out ++ [.fault c] } :=
  s.raise_fields c 0x4#4 r 0x00#8

theorem wordWrc_toNat (r : RegIndex) (v : Byte) :
    (wordWrc r v).toNat = 0x3000 + 256 * r.toNat + v.toNat :=
  fields_toNat 0x3#4 r v

theorem wordRdr_toNat (r : RegIndex) : (wordRdr r).toNat = 0x4000 + 256 * r.toNat :=
  fields_toNat 0x4#4 r 0x00#8

theorem wordWrc_eq_ofNat (r : RegIndex) (v : Byte) :
    wordWrc r v = BitVec.ofNat 16 (0x3000 + 256 * r.toNat + v.toNat) := by
  rw [← wordWrc_toNat, BitVec.ofNat_toNat, BitVec.setWidth_eq]

theorem wordRdr_eq_ofNat (r : RegIndex) :
    wordRdr r = BitVec.ofNat 16 (0x4000 + 256 * r.toNat) := by
  rw [← wordRdr_toNat, BitVec.ofNat_toNat, BitVec.setWidth_eq]

theorem decodeCommand_wordWrc (r : RegIndex) (v : Byte) :
    decodeCommand (wordWrc r v) = .ok (.wrc r v) := by
  have hop : opField (wordWrc r v) = 3 := opField_fields _ r v
  rw [decodeCommand_of_op_three hop, wordWrc, regField_fields, dataField_fields]

theorem decodeCommand_wordRdr (r : RegIndex) : decodeCommand (wordRdr r) = .ok (.rdr r) := by
  have hop : opField (wordRdr r) = 4 := opField_fields _ r _
  rw [decodeCommand_of_op_four hop, wordRdr, regField_fields, dataField_fields]
  rfl

theorem decodeCommand_rdr_field {w : Word} (hop : w.toNat / 4096 = 4)
    (hfield : w.toNat % 256 ≠ 0) : decodeCommand w = .error .mustBeZero := by
  have hdata : dataField w ≠ 0 := by
    intro h
    have := congrArg BitVec.toNat h
    rw [dataField_eq_ofNat, BitVec.toNat_ofNat] at this
    exact hfield this
  rw [decodeCommand_of_op_four (opField_eq_of_div hop)]
  simpa using hdata

/-! ### The checks of WRC and RDR (R111, R112) -/

theorem indexAssigned_of_le {r : RegIndex} (h : r.toNat ≤ 12) : indexAssigned r = true :=
  decide_eq_true h

theorem indexAssigned_of_reserved {r : RegIndex} (h : 13 ≤ r.toNat) : indexAssigned r = false :=
  decide_eq_false (by omega)

/-- Bits 7:1 of a byte are zero exactly when it is 0 or 1 (10_state.md R14). -/
theorem ctlReservedClear_iff (r : RegIndex) (v : Byte) :
    ctlReservedClear r v = true ↔ (r.toNat = 4 → v.toNat ≤ 1) := by
  have hbits : v.extractLsb' 1 7 = 0 ↔ v.toNat ≤ 1 := by
    rw [← BitVec.toNat_inj, BitVec.extractLsb'_toNat, Nat.shiftRight_eq_div_pow]
    simp
    omega
  simp [ctlReservedClear, ← hbits, imp_iff_not_or]

theorem State.wrcCheck_of_reserved (s : State) {r : RegIndex} (v : Byte) (h : 13 ≤ r.toNat) :
    s.wrcCheck r v = some .illfld := by
  simp [State.wrcCheck, indexAssigned_of_reserved h]

theorem State.wrcCheck_of_ctl_reserved (s : State) {r : RegIndex} {v : Byte} (hr : r = 4)
    (hv : 2 ≤ v.toNat) : s.wrcCheck r v = some .illfld := by
  have hctl : ctlReservedClear r v = false := by
    rw [← Bool.not_eq_true, ctlReservedClear_iff, hr]
    exact fun h => absurd (h rfl) (by omega)
  simp [State.wrcCheck, hctl]

theorem State.wrcCheck_of_readOnly (s : State) {r : RegIndex} (v : Byte) (h5 : 5 ≤ r.toNat)
    (h12 : r.toNat ≤ 12) : s.wrcCheck r v = some .roreg := by
  have hctl : ctlReservedClear r v = true := (ctlReservedClear_iff r v).2 (by omega)
  simp [State.wrcCheck, indexAssigned_of_le h12, hctl, h5]

/-- A legal value for a writable register meets the configuration lock alone. -/
theorem State.wrcCheck_of_writable (s : State) {r : RegIndex} {v : Byte}
    (h : r.toNat ≤ 3 ∨ r = 4 ∧ v.toNat ≤ 1) :
    s.wrcCheck r v = if s.phase = .idle then none else some .cfglock := by
  have hr : r.toNat ≤ 4 := by
    rcases h with h | ⟨rfl, -⟩
    · omega
    · decide
  have hctl : ctlReservedClear r v = true := (ctlReservedClear_iff r v).2 (by omega)
  simp [State.wrcCheck, indexAssigned_of_le (r := r) (by omega), hctl, show ¬ 5 ≤ r.toNat by omega]

theorem rdrCheck_of_reserved {r : RegIndex} (h : 13 ≤ r.toNat) : rdrCheck r = some .illfld := by
  simp [rdrCheck, indexAssigned_of_reserved h]

theorem rdrCheck_of_le {r : RegIndex} (h : r.toNat ≤ 12) : rdrCheck r = none := by
  simp [rdrCheck, indexAssigned_of_le h]

/-! ### The register file read by index (10_state.md R24) -/

/-- The "RDR returns" column of R24, by index. -/
def State.registerColumn (s : State) : List Byte :=
  [s.p1, s.p2, s.ia, s.ib, s.ctlByte, s.statusByte, s.causeByte, s.badh, s.badl, s.w0, s.w1, s.w2,
    s.key]

theorem State.readReg_eq_registerColumn (s : State) (r : RegIndex) :
    s.readReg r = s.registerColumn[r.toNat]? := by
  unfold State.readReg
  generalize r.toNat = n
  match n with
  | 0 | 1 | 2 | 3 | 4 | 5 | 6 | 7 | 8 | 9 | 10 | 11 | 12 => rfl
  | _ + 13 => rfl

theorem State.index_le_of_readReg_eq_some {s : State} {r : RegIndex} {v : Byte}
    (h : s.readReg r = some v) : r.toNat ≤ 12 := by
  rw [State.readReg_eq_registerColumn] at h
  exact Nat.le_of_lt_succ (List.getElem?_eq_some_iff.1 h).1

/-! ### WRC and RDR in the phases that accept commands -/

theorem exec_wrc_of_check_some {s : State} {r : RegIndex} {v : Byte} {c : FaultCode}
    (h : s.phase = .idle ∨ s.phase = .scan ∨ s.phase = .done) (hc : s.wrcCheck r v = some c) :
    exec (.wrc r v) s = .next (s.raise c (wordWrc r v)) := by
  rw [exec, execWrc, hc]
  exact runCommand_raise _ _ _ _ _ h

theorem exec_wrc_of_idle {s : State} {r : RegIndex} {v : Byte} (h : s.phase = .idle)
    (hw : r.toNat ≤ 3 ∨ r = 4 ∧ v.toNat ≤ 1) :
    exec (.wrc r v) s = .next (s.writeReg r v) := by
  rw [exec, execWrc, s.wrcCheck_of_writable hw, if_pos h]
  exact runCommand_effect _ _ _ _ (.inl h)

theorem exec_wrc_of_fault {s : State} {r : RegIndex} {v : Byte} (h : s.phase = .fault) :
    exec (.wrc r v) s = .next s := by
  rw [exec, execWrc, runCommand_discarded _ _ _ _ h]

theorem exec_rdr_of_readReg {s : State} {r : RegIndex} {v : Byte} (h : isBusy s.phase = false)
    (hv : s.readReg r = some v) : exec (.rdr r) s = .next (s.emit (.reg r v)) := by
  rw [exec, execRdr, rdrCheck_of_le (State.index_le_of_readReg_eq_some hv),
    runCommand_executes _ _ _ h, State.rdrEffect, hv]

theorem exec_rdr_of_reserved {s : State} {r : RegIndex} (hr : 13 ≤ r.toNat)
    (h : s.phase = .idle ∨ s.phase = .scan ∨ s.phase = .done) :
    exec (.rdr r) s = .next (s.raise .illfld (wordRdr r)) := by
  rw [exec, execRdr, rdrCheck_of_reserved hr]
  exact runCommand_raise _ _ _ _ _ h

theorem exec_rdr_of_reserved_of_fault {s : State} {r : RegIndex} (hr : 13 ≤ r.toNat)
    (h : s.phase = .fault) : exec (.rdr r) s = .next s := by
  rw [exec, execRdr, rdrCheck_of_reserved hr, runCommand_of_fault_of_check _ _ _ _ _ h]

/-- Settles O16: IDLE writes the five registers; elsewhere the first failing check is read off the
index, the value and the phase. -/
theorem wrcFollowsItsRule : Obligations.WrcFollowsItsRule := by
  refine ⟨fun s v hp => ?_, fun s r v hp => ?_, fun s r v => exec_wrc_of_fault, fun r v => ?_⟩
  · refine ⟨exec_wrc_of_idle hp (.inl (by decide)), exec_wrc_of_idle hp (.inl (by decide)),
      exec_wrc_of_idle hp (.inl (by decide)), exec_wrc_of_idle hp (.inl (by decide)), ?_, ?_⟩
    · rintro rfl
      exact exec_wrc_of_idle hp (.inr (by decide))
    · rintro rfl
      exact exec_wrc_of_idle hp (.inr (by decide))
  · simp only [← State.raise_wordWrc]
    refine ⟨fun hr => ?_, fun ⟨hr, hv⟩ => ?_, fun ⟨h5, h12⟩ => ?_, fun ⟨hw, hidle⟩ => ?_⟩
    · exact exec_wrc_of_check_some hp (s.wrcCheck_of_reserved v hr)
    · exact exec_wrc_of_check_some hp (s.wrcCheck_of_ctl_reserved hr hv)
    · exact exec_wrc_of_check_some hp (s.wrcCheck_of_readOnly v h5 h12)
    · have hc : s.wrcCheck r v = some .cfglock := by rw [s.wrcCheck_of_writable hw, if_neg hidle]
      exact exec_wrc_of_check_some hp hc
  · rw [← wordWrc_eq_ofNat]
    exact decodeCommand_wordWrc r v

/-- Settles O17: the column of R24 is what a read returns, so an assigned index emits its entry and a
reserved one fails the check. -/
theorem rdrFollowsItsRule : Obligations.RdrFollowsItsRule := by
  refine ⟨fun s r v hb hv => ?_, fun s r hr => ⟨fun hp => ?_, exec_rdr_of_reserved_of_fault hr⟩,
    fun r => ?_, fun w => decodeCommand_rdr_field⟩
  · exact exec_rdr_of_readReg hb ((s.readReg_eq_registerColumn r).trans hv)
  · rw [← State.raise_wordRdr]
    exact exec_rdr_of_reserved hr hp
  · rw [← wordRdr_eq_ofNat]
    exact decodeCommand_wordRdr r

end Sys2Proof.Machine
end

section
/-! ## Words and records both ways (30_encoding.md sections 2 to 4)

The settled statements about encoder and decoder: every operation is decoded back from its encoding,
every command word has one meaning, and an output word determines its record. -/

namespace Sys2Proof.Machine

/-! ### From operation to word and back (R61, R67) -/

theorem decodeCommand_wordEnd (f : Bool) : decodeCommand (wordEnd f) = .ok (.endStream f) := by
  cases f <;> decide

theorem decode_cmd16_of_ok {w : Word} {i : Instr} (h : decodeCommand w = .ok i) :
    decode (.cmd16 w) = .ok i := by
  rw [decode, h]

/-- Settles O36: a command by the decoder's equation for its word, a sequencer operation by its one
row. -/
theorem decodeOfEncodeIsInstr : Obligations.DecodeOfEncodeIsInstr := by
  intro i
  cases i with
  | nop => rfl
  | push b => exact decode_cmd16_of_ok (decodeCommand_wordPush b)
  | endStream f => exact decode_cmd16_of_ok (decodeCommand_wordEnd f)
  | wrc r v => exact decode_cmd16_of_ok (decodeCommand_wordWrc r v)
  | rdr r => exact decode_cmd16_of_ok (decodeCommand_wordRdr r)
  | dumpb | dumpx | packb | packx | keyh | xorb | keyn | fin => rfl

/-! ### From word to operation and back (R64) -/

/-- A word is its opcode and the twelve bits below it. -/
theorem opField_append_low (w : Word) : opField w ++ w.extractLsb' 0 12 = w :=
  extract_append_extract 4 12 w

/-- A word is its opcode, its register field and its data field (00_scope.md R9). -/
theorem fields_append (w : Word) : opField w ++ regField w ++ dataField w = w := by
  have hhigh : opField w ++ regField w = w.extractLsb' 8 8 :=
    BitVec.extractLsb'_append_extractLsb'_eq_extractLsb' rfl
  rw [hhigh]
  exact extract_append_extract 8 8 w

/-- A word is its opcode, the eleven bits of END's field and its lowest bit. -/
theorem opField_append_endField_append_bit (w : Word) :
    opField w ++ w.extractLsb' 1 11 ++ BitVec.ofBool (w.getLsbD 0) = w := by
  have hhigh : opField w ++ w.extractLsb' 1 11 = w.extractLsb' 1 15 :=
    BitVec.extractLsb'_append_extractLsb'_eq_extractLsb' rfl
  have hlow : BitVec.ofBool (w.getLsbD 0) = w.extractLsb' 0 1 := by
    ext j hj
    obtain rfl : j = 0 := by omega
    simp
  rw [hhigh, hlow]
  exact extract_append_extract 15 1 w

/-- Settles O37: the decoder's tests fix every field of the word that the operands do not carry. -/
theorem commandWordHasOneMeaning : Obligations.CommandWordHasOneMeaning := by
  intro w i h
  rcases opField_cases w with hop | hop | hop | hop | hop | hop
  · rw [decodeCommand_of_op_zero hop, whenZero_eq_ok_iff, beq_iff_eq] at h
    obtain ⟨hz, rfl⟩ := h
    have hw := opField_append_low w
    rw [hop, hz] at hw
    exact congrArg Code.cmd16 hw
  · rw [decodeCommand_of_op_one hop, whenZero_eq_ok_iff, beq_iff_eq] at h
    obtain ⟨hz, rfl⟩ := h
    have hw := fields_append w
    rw [hop, hz] at hw
    exact congrArg Code.cmd16 hw
  · rw [decodeCommand_of_op_two hop, whenZero_eq_ok_iff, beq_iff_eq] at h
    obtain ⟨hz, rfl⟩ := h
    have hw := opField_append_endField_append_bit w
    rw [hop, hz] at hw
    exact congrArg Code.cmd16 hw
  · rw [decodeCommand_of_op_three hop, Except.ok.injEq] at h
    obtain rfl := h
    have hw := fields_append w
    rw [hop] at hw
    exact congrArg Code.cmd16 hw
  · rw [decodeCommand_of_op_four hop, whenZero_eq_ok_iff, beq_iff_eq] at h
    obtain ⟨hz, rfl⟩ := h
    have hw := fields_append w
    rw [hop, hz] at hw
    exact congrArg Code.cmd16 hw
  · simp [decodeCommand_of_reserved hop] at h

/-! ### From output word to record (R68, R69) -/

/-- The "aux" column of R69, bits 11:8 of a record's word. -/
def Record.aux : Record → BitVec 4
  | .trace _ m => 0#3 ++ BitVec.ofBool m
  | .bit _ => 0
  | .rbyte _ => 0
  | .keyrec _ => 0
  | .cand _ => 0
  | .done => 0
  | .reg r _ => r
  | .fault c => faultBits c

/-- The "data" column of R69, bits 7:0 of a record's word. -/
def Record.data : Record → Byte
  | .trace b _ => b
  | .bit x => 0#7 ++ x
  | .rbyte v => v
  | .keyrec k => k
  | .cand c => c
  | .done => 0
  | .reg _ v => v
  | .fault _ => 0

/-- A record's word is `{kind, aux, data}` (R68). -/
theorem recordWord_eq_fields (r : Record) :
    recordWord r = BitVec.ofNat 4 r.kind ++ r.aux ++ r.data := by
  cases r with
  | trace b m => cases m <;> rfl
  | bit x => revert x; decide
  | rbyte | keyrec | cand | done | reg | fault => rfl

theorem faultBits_injective {c d : FaultCode} (h : faultBits c = faultBits d) : c = d := by
  revert h; cases c <;> cases d <;> decide

theorem Record.kind_lt (r : Record) : r.kind < 2 ^ 4 := by
  cases r <;> simp [Record.kind]

/-- The three fields of R68 determine the record. -/
theorem Record.eq_of_fields {r q : Record} (hk : r.kind = q.kind) (ha : r.aux = q.aux)
    (hd : r.data = q.data) : r = q := by
  cases r <;> cases q <;> cases hk <;> simp only [Record.aux, Record.data] at ha hd
  case trace.trace b m b' m' =>
    have hm : m = m' := by
      revert ha; cases m <;> cases m' <;> decide
    rw [hd, hm]
  case bit.bit x x' => rw [(append_eq_append_iff.1 hd).2]
  case reg.reg => rw [ha, hd]
  case fault.fault => rw [faultBits_injective ha]
  case done.done => rfl
  all_goals rw [hd]

/-- Settles O41: equal words have equal fields, and the fields determine the record. -/
theorem recordWordInjective : Obligations.RecordWordInjective := by
  intro r q h
  rw [recordWord_eq_fields, recordWord_eq_fields, append_eq_append_iff, append_eq_append_iff] at h
  obtain ⟨⟨hk, ha⟩, hd⟩ := h
  have hkind : r.kind = q.kind := by
    have := congrArg BitVec.toNat hk
    rwa [BitVec.toNat_ofNat, BitVec.toNat_ofNat, Nat.mod_eq_of_lt r.kind_lt,
      Nat.mod_eq_of_lt q.kind_lt] at this
  exact Record.eq_of_fields hkind ha hd

end Sys2Proof.Machine
end

section
/-! ## What an operation and a step can do (00_scope.md R4, 60_exceptions.md, 30_encoding.md R67)

One inversion lemma for `exec` and one for `step`, from which the later sections derive frames and
invariants, and the settled statements that say what a step does. -/

namespace Sys2Proof.Machine

/-! ### The operations of the sequencer -/

/-- The operations of the sequencer (30_encoding.md R67). -/
abbrev sequencerOps : List Instr := [.dumpb, .dumpx, .packb, .packx, .keyh, .xorb, .keyn, .fin]

theorem sequencerOp_of_selected {s : State} {i : Instr} (h : decodeSelect s.select = some i) :
    i ∈ sequencerOps := by
  obtain ⟨row, hrow, rfl⟩ := Option.map_eq_some_iff.1 h
  exact List.mem_map_of_mem (f := Prod.snd) (List.mem_of_find?_eq_some hrow)

/-- A sequencer operation executed where it is not selected stops the model. -/
theorem exec_of_not_selected {s : State} {i : Instr} (hi : i ∈ sequencerOps)
    (h : decodeSelect s.select ≠ some i) : exec i s = .fault .notSelected := by
  fin_cases hi <;> exact if_neg h

/-- Settles O12: `runSelected` tests the selection before the operation acts. -/
theorem unselectedOperationStops : Obligations.UnselectedOperationStops :=
  fun _ _ hi h => exec_of_not_selected hi h

/-! ### The outcomes of an operation -/

/-- The phases in which a command can fault (60_exceptions.md R130). -/
abbrev Phase.takesFault (p : Phase) : Prop := p = .idle ∨ p = .scan ∨ p = .done

theorem Phase.takesFault_iff (p : Phase) : p.takesFault ↔ isBusy p = false ∧ p ≠ .fault := by
  cases p <;> simp [Phase.takesFault, isBusy]

/-- `Does s i t`: operation `i` has its effect in `s` and leaves `t`. The other outcomes of an
operation are the unchanged state and fault entry (`exec_cases`). -/
inductive Does (s : State) : Instr → State → Prop
  | push (b : Byte) (hp : s.phase = .idle ∨ s.phase = .scan)
      (hfull : s.pushRecognized b = true → s.accFull = false) : Does s (.push b) (s.pushEffect b)
  | endStream (f : Bool) (hp : s.phase = .idle ∨ s.phase = .scan) :
      Does s (.endStream f) { s with srcFail := f, idx := 0, phase := .dump }
  | wrc (r : RegIndex) (v : Byte) (hp : s.phase = .idle) : Does s (.wrc r v) (s.writeReg r v)
  | rdr (r : RegIndex) (v : Byte) : Does s (.rdr r) { s with out := s.out ++ [.reg r v] }
  | dumpb (x : Bool) (hp : s.phase = .dump) (hx : s.acc[s.idx]? = some x) :
      Does s .dumpb { s with idx := s.idx + 1, out := s.out ++ [.bit (BitVec.ofBool x)] }
  | dumpx (hp : s.phase = .dump) (hi : s.acc.length ≤ s.idx) :
      Does s .dumpx { s with idx := 0, phase := .pack }
  | packb (hp : s.phase = .pack) (hn : s.rb.length < s.acc.length / 8) :
      Does s .packb { s with
        rb := s.rb ++ [packedByte s.acc s.rb.length]
        out := s.out ++ [.rbyte (packedByte s.acc s.rb.length)] }
  | packx (hp : s.phase = .pack) (hn : s.acc.length / 8 ≤ s.rb.length) :
      Does s .packx { s with key := 0x00, phase := .xorh }
  | keyh (hp : s.phase = .xorh) :
      Does s .keyh { s with idx := 0, phase := .xorb, out := s.out ++ [.keyrec s.key] }
  | xorb (v : Byte) (hp : s.phase = .xorb) (hv : s.rb[s.idx]? = some v) :
      Does s .xorb { s with idx := s.idx + 1, out := s.out ++ [.cand (v ^^^ s.key)] }
  | keyn (hp : s.phase = .xorb) (hi : s.rb.length ≤ s.idx) (hk : s.key ≠ 0xFF) :
      Does s .keyn { s with key := s.key + 1, phase := .xorh }
  | fin (hp : s.phase = .xorb) (hi : s.rb.length ≤ s.idx) (hk : s.key = 0xFF) :
      Does s .fin { s with phase := .done, out := s.out ++ [.done] }

/-- A selected operation answers a next state: its effect (30_encoding.md R67, "never stuck"). -/
theorem exec_of_selected {s : State} {i : Instr} (h : decodeSelect s.select = some i) :
    ∃ t, exec i s = .next t ∧ Does s i t := by
  have hi := sequencerOp_of_selected h
  obtain ⟨hdumpb, hdumpx, hpackb, hpackx, hkeyh, hxorb, hkeyn, hfin, -⟩ := sequencerSelectsByTable s
  fin_cases hi
  · obtain ⟨hp, hlt⟩ := hdumpb.1 h
    have hx := List.getElem?_eq_getElem hlt
    exact ⟨_, (dumpbEmitsBit s _ hp hx).2, .dumpb _ hp hx⟩
  · obtain ⟨hp, hge⟩ := hdumpx.1 h
    exact ⟨_, if_pos h, .dumpx hp (Nat.le_of_not_lt hge)⟩
  · obtain ⟨hp, hlt⟩ := hpackb.1 h
    exact ⟨_, (packbStoresPackedByte s hp hlt).2, .packb hp hlt⟩
  · obtain ⟨hp, hge⟩ := hpackx.1 h
    exact ⟨_, if_pos h, .packx hp (Nat.le_of_not_lt hge)⟩
  · have hp := hkeyh.1 h
    exact ⟨_, (keyhEmitsHeader s hp).2, .keyh hp⟩
  · obtain ⟨hp, hlt⟩ := hxorb.1 h
    have hv := List.getElem?_eq_getElem hlt
    have he := (xorbEmitsCandidate s _ hp hv).2
    rw [ofNat_xor_toNat] at he
    exact ⟨_, he, .xorb _ hp hv⟩
  · obtain ⟨hp, hge, hk⟩ := hkeyn.1 h
    exact ⟨_, if_pos h, .keyn hp (Nat.le_of_not_lt hge) hk⟩
  · obtain ⟨hp, hge, hk⟩ := hfin.1 h
    exact ⟨_, if_pos h, .fin hp (Nat.le_of_not_lt hge) hk⟩

theorem runCommand_answers (w : Word) (f : InFault) (check : Option FaultCode)
    (effect : State → State) (s : State) : ∃ t, runCommand w f check effect s = .next t := by
  rcases runCommand_cases w f check effect s with ⟨h, -⟩ | ⟨c, -, h, -⟩ | ⟨-, h, -⟩ <;>
    exact ⟨_, h⟩

theorem exec_command_answers {i : Instr} {w : Word} (hw : encode i = .cmd16 w) (s : State) :
    ∃ t, exec i s = .next t := by
  cases i with
  | nop => exact runCommand_answers wordNop _ _ _ _
  | push b => exact runCommand_answers (wordPush b) _ _ _ _
  | endStream f => rw [exec, execEndStream]; exact runCommand_answers _ _ _ _ _
  | wrc r v => rw [exec, execWrc]; exact runCommand_answers _ _ _ _ _
  | rdr r => exact runCommand_answers (wordRdr r) _ _ _ _
  | dumpb | dumpx | packb | packx | keyh | xorb | keyn | fin => cases hw

theorem does_of_exec_sequencerOp {i : Instr} {s t : State} (hi : i ∈ sequencerOps)
    (h : exec i s = .next t) : Does s i t := by
  have hsel : decodeSelect s.select = some i := by
    by_contra hn
    simp [exec_of_not_selected hi hn] at h
  obtain ⟨t', he, hd⟩ := exec_of_selected hsel
  obtain rfl := Host.Outcome.next.inj (h.symm.trans he)
  exact hd

/-- Where a command that FAULT discards takes effect, DONE excepted. -/
theorem idle_or_scan_of_effect {s : State} (hb : isBusy s.phase = false)
    (hf : s.phase = .fault → InFault.discarded = .executes) (hne : s.phase ≠ .done) :
    s.phase = .idle ∨ s.phase = .scan := by
  have hp := (Phase.takesFault_iff _).2 ⟨hb, fun h => nomatch hf h⟩
  exact hp.imp_right fun h => h.resolve_right hne

theorem State.pushCheck_none_iff (s : State) (b : Byte) :
    s.pushCheck b = none ↔
      s.phase ≠ .done ∧ (s.pushRecognized b = true → s.accFull = false) := by
  by_cases hd : s.phase = .done <;> simp [State.pushCheck, hd]

theorem State.endCheck_none_iff (s : State) : s.endCheck = none ↔ s.phase ≠ .done := by
  simp [State.endCheck]

theorem State.idle_of_wrcCheck_none {s : State} {r : RegIndex} {v : Byte}
    (h : s.wrcCheck r v = none) : s.phase = .idle := by
  by_contra hn
  simp only [State.wrcCheck, bne_iff_ne, ne_eq, hn, not_false_eq_true, if_true] at h
  split_ifs at h

theorem State.readReg_of_rdrCheck_none {s : State} {r : RegIndex} (h : rdrCheck r = none) :
    ∃ v, s.readReg r = some v := by
  have hr : r.toNat ≤ 12 := by
    by_contra hn
    simp [rdrCheck_of_reserved (r := r) (by omega)] at h
  rw [State.readReg_eq_registerColumn]
  exact ⟨_, List.getElem?_eq_getElem (Nat.lt_succ_of_le hr)⟩

/-- A command answers the unchanged state, fault entry, or its effect, which passed the check. -/
theorem command_cases {i : Instr} {w : Word} {f : InFault} {check : Option FaultCode}
    {effect : State → State} {s t : State} (hi : exec i s = runCommand w f check effect s)
    (hw : encode i = .cmd16 w)
    (heffect : check = none → isBusy s.phase = false → (s.phase = .fault → f = .executes) →
      effect s = s ∨ Does s i (effect s))
    (h : exec i s = .next t) :
    t = s ∨ (∃ c w, encode i = .cmd16 w ∧ s.phase.takesFault ∧ t = s.raise c w) ∨ Does s i t := by
  rcases runCommand_cases w f check effect s with
      ⟨he, -⟩ | ⟨c, -, he, hb, hf⟩ | ⟨hc, he, hb, hf⟩ <;>
    obtain rfl := Host.Outcome.next.inj (h.symm.trans (hi.trans he))
  · exact .inl rfl
  · exact .inr (.inl ⟨c, w, hw, (Phase.takesFault_iff _).2 ⟨hb, hf⟩, rfl⟩)
  · exact (heffect hc hb hf).imp_right .inr

/-- Every answer of an operation: the unchanged state (NOP, a held or discarded command), fault
entry for a command's own word, or the operation's effect. -/
theorem exec_cases {i : Instr} {s t : State} (h : exec i s = .next t) :
    t = s ∨ (∃ c w, encode i = .cmd16 w ∧ s.phase.takesFault ∧ t = s.raise c w) ∨ Does s i t := by
  cases i with
  | nop => exact command_cases (by rw [exec, execNop]) rfl (fun _ _ _ => .inl rfl) h
  | push b =>
    refine command_cases (by rw [exec, execPush]) rfl (fun hc hb hf => .inr ?_) h
    obtain ⟨hne, hfull⟩ := (s.pushCheck_none_iff b).1 hc
    exact .push b (idle_or_scan_of_effect hb hf hne) hfull
  | endStream f =>
    refine command_cases (by rw [exec, execEndStream]) rfl (fun hc hb hf => .inr ?_) h
    exact .endStream f (idle_or_scan_of_effect hb hf (s.endCheck_none_iff.1 hc))
  | wrc r v =>
    refine command_cases (by rw [exec, execWrc]) rfl (fun hc _ _ => .inr ?_) h
    exact .wrc r v (State.idle_of_wrcCheck_none hc)
  | rdr r =>
    refine command_cases (by rw [exec, execRdr]) rfl (fun hc _ _ => .inr ?_) h
    obtain ⟨v, hv⟩ := s.readReg_of_rdrCheck_none hc
    rw [State.rdrEffect, hv]
    exact .rdr r v
  | dumpb | dumpx | packb | packx | keyh | xorb | keyn | fin =>
    exact .inr (.inr (does_of_exec_sequencerOp (by simp) h))

/-! ### The step -/

/-- `s` with the port and the reset counter the block's step works on: `c` is what is left at the
port (log 2), and the counter has advanced (log 3). -/
def State.ticked (s : State) (c : List Word) : State :=
  { s with cmd := c, resets := s.tickReset.resets }

theorem step_of_due {s : State} (h : s.resets.head? = some 0) :
    step s = .next s.dropReset.resetEvent :=
  if_pos (s.resetDue_iff.2 h)

theorem step_of_selected {s : State} {i : Instr} (hr : s.resets.head? ≠ some 0)
    (h : decodeSelect s.select = some i) : step s = exec i (s.ticked s.cmd) := by
  have hsel : decodeSelect s.tickReset.select = some i := h
  rw [step_of_not_due s hr, blockStep, hsel]
  rfl

theorem step_of_command {s : State} {w : Word} {rest : List Word} (hr : s.resets.head? ≠ some 0)
    (hb : isBusy s.phase = false) (hc : s.cmd = w :: rest) :
    step s = acceptWord w (s.ticked rest) := by
  have hsel : decodeSelect s.tickReset.select = none := decodeSelect_of_not_busy hb
  have hcmd : s.tickReset.cmd = w :: rest := hc
  rw [step_of_not_due s hr, blockStep, hsel, hcmd]
  rfl

theorem step_of_no_command {s : State} (hr : s.resets.head? ≠ some 0)
    (hb : isBusy s.phase = false) (hc : s.cmd = []) : step s = .next (s.ticked s.cmd) := by
  have hsel : decodeSelect s.tickReset.select = none := decodeSelect_of_not_busy hb
  have hcmd : s.tickReset.cmd = [] := hc
  rw [step_of_not_due s hr, blockStep, hsel, hcmd]
  rfl

theorem acceptWord_of_ok {w : Word} {i : Instr} (h : decodeCommand w = .ok i) (s : State) :
    acceptWord w s = exec i s := by
  rw [acceptWord, h]

theorem acceptWord_of_error {w : Word} {e : BadWord} (h : decodeCommand w = .error e) (s : State) :
    acceptWord w s = .next (s.rejectWord e w) := by
  rw [acceptWord, h]

theorem selected_of_busy {s : State} (h : isBusy s.phase = true) :
    ∃ i, decodeSelect s.select = some i := by
  obtain ⟨-, -, -, -, -, -, -, -, hnone⟩ := sequencerSelectsByTable s
  refine Option.ne_none_iff_exists'.1 fun hn => ?_
  rcases hnone.1 hn with hp | hp | hp | hp <;> simp [hp, isBusy] at h

/-- Every answer of a step that is no reset event: only the port and the reset counter move, or the
first word at the port faults, or an operation has its effect. -/
theorem step_cases {s t : State} (hr : s.resets.head? ≠ some 0) (h : step s = .next t) :
    ∃ c, t = s.ticked c ∨
      (∃ code w, s.cmd = w :: c ∧ s.phase.takesFault ∧ t = (s.ticked c).raise code w) ∨
      ∃ i, Does (s.ticked c) i t := by
  by_cases hb : isBusy s.phase = true
  · obtain ⟨i, hi⟩ := selected_of_busy hb
    rw [step_of_selected hr hi] at h
    exact ⟨s.cmd, .inr (.inr ⟨i, does_of_exec_sequencerOp (sequencerOp_of_selected hi) h⟩)⟩
  · rw [Bool.not_eq_true] at hb
    cases hc : s.cmd with
    | nil =>
      rw [step_of_no_command hr hb hc] at h
      exact ⟨s.cmd, .inl (Host.Outcome.next.inj h).symm⟩
    | cons w rest =>
      refine ⟨rest, ?_⟩
      rw [step_of_command hr hb hc] at h
      cases hd : decodeCommand w with
      | error e =>
        rw [acceptWord_of_error hd] at h
        obtain rfl := Host.Outcome.next.inj h
        by_cases hf : s.phase = .fault
        · exact .inl (if_pos hf)
        · exact .inr (.inl ⟨_, w, rfl, (Phase.takesFault_iff _).2 ⟨hb, hf⟩, if_neg hf⟩)
      | ok i =>
        rw [acceptWord_of_ok hd] at h
        rcases exec_cases h with rfl | ⟨c, w', hw, hp, rfl⟩ | hdoes
        · exact .inl rfl
        · obtain rfl := Code.cmd16.inj ((commandWordHasOneMeaning w i hd).symm.trans hw)
          exact .inr (.inl ⟨c, w, rfl, hp, rfl⟩)
        · exact .inr (.inr ⟨i, hdoes⟩)

/-- What holds of a state, does not look at the port, holds after a reset event, and is kept by
fault entry and by every effect, is kept by every step. -/
theorem step_keeps {P : State → Prop} (hport : ∀ s c, P s → P (s.ticked c))
    (hreset : ∀ s : State, P s.resetEvent)
    (hraise : ∀ s c w, s.phase.takesFault → P s → P (s.raise c w))
    (hdoes : ∀ i s t, Does s i t → P s → P t) {s t : State} (hs : P s) (h : step s = .next t) :
    P t := by
  by_cases hr : s.resets.head? = some 0
  · obtain rfl := Host.Outcome.next.inj ((step_of_due hr).symm.trans h)
    exact hreset _
  · obtain ⟨c, rfl | ⟨code, w, -, hp, rfl⟩ | ⟨i, hd⟩⟩ := step_cases hr h
    · exact hport s c hs
    · exact hraise _ code w hp (hport s c hs)
    · exact hdoes i _ t hd (hport s c hs)

/-! ### Steps, reset events and commands outside and inside the busy phases -/

/-- Settles O1: the fields of the definition, read off. -/
theorem resetStateHoldsSpecValues : Obligations.ResetStateHoldsSpecValues := by
  unfold Obligations.ResetStateHoldsSpecValues
  decide

/-- Settles O2: the due entry leaves the list, and the reset event writes the other fields. -/
theorem resetEventWritesResetValues : Obligations.ResetEventWritesResetValues := by
  intro s rest h
  rw [step_of_due (by rw [h]; rfl)]
  simp [State.resetEvent, State.reset, State.dropReset, h]

/-- Settles O3: outside the busy phases nothing is selected, so the word is accepted. -/
theorem stepRunsDecodedCommand : Obligations.StepRunsDecodedCommand := by
  intro s w rest i hr hb hc hd
  rw [step_of_command hr hb hc, acceptWord_of_ok hd]
  rfl

/-- Settles O4: a selected operation runs before the port is looked at. -/
theorem stepRunsSelectedOperation : Obligations.StepRunsSelectedOperation :=
  fun _ _ hr h => step_of_selected hr h

/-- Settles O5: outside the busy phases nothing is selected, and nothing is accepted. -/
theorem stepWaitsWithoutCommand : Obligations.StepWaitsWithoutCommand :=
  fun _ hr hb hc => step_of_no_command hr hb hc

/-- Settles O10: a selected operation acts, and a word at the port is a command or rejected. -/
theorem stepAlwaysAnswersNext : Obligations.StepAlwaysAnswersNext := by
  intro s
  by_cases hr : s.resets.head? = some 0
  · exact ⟨_, step_of_due hr⟩
  by_cases hb : isBusy s.phase = true
  · obtain ⟨i, hi⟩ := selected_of_busy hb
    obtain ⟨t, ht, -⟩ := exec_of_selected (s := s.ticked s.cmd) hi
    exact ⟨t, (step_of_selected hr hi).trans ht⟩
  rw [Bool.not_eq_true] at hb
  cases hc : s.cmd with
  | nil => exact ⟨_, step_of_no_command hr hb hc⟩
  | cons w rest =>
    rw [step_of_command hr hb hc]
    cases hd : decodeCommand w with
    | error e => exact ⟨_, acceptWord_of_error hd _⟩
    | ok i =>
      rw [acceptWord_of_ok hd]
      exact exec_command_answers (commandWordHasOneMeaning w i hd) _

theorem exec_command_of_busy {s : State} {i : Instr} {w : Word} (hb : isBusy s.phase = true)
    (hw : encode i = .cmd16 w) : exec i s = .next s := by
  cases i with
  | nop | push | endStream | wrc | rdr => exact if_pos hb
  | dumpb | dumpx | packb | packx | keyh | xorb | keyn | fin => cases hw

/-- Settles O18: `runCommand` tests the busy phases first. -/
theorem commandsHaveNoEffectWhileBusy : Obligations.CommandsHaveNoEffectWhileBusy :=
  fun _ _ _ hb hw => exec_command_of_busy hb hw

theorem exec_nop (s : State) : exec .nop s = .next s := by
  rw [exec, execNop]
  rcases runCommand_cases wordNop .executes none id s with ⟨h, -⟩ | ⟨c, hc, -⟩ | ⟨-, h, -⟩
  · exact h
  · cases hc
  · exact h

theorem decodeCommand_nop_field {w : Word} (hop : w.toNat / 4096 = 0) (hfield : w.toNat ≠ 0) :
    decodeCommand w = .error .mustBeZero := by
  have hlow : w.extractLsb' 0 12 ≠ 0 := by
    intro h
    have := congrArg BitVec.toNat h
    simp [BitVec.extractLsb'_toNat] at this
    omega
  rw [decodeCommand_of_op_zero (opField_eq_of_div hop)]
  simpa using hlow

/-- Settles O13: NOP has no check and no effect, and a non-zero word of opcode 0 has a
non-zero field. -/
theorem nopChangesNothing : Obligations.NopChangesNothing :=
  ⟨exec_nop, rfl, fun _ => decodeCommand_nop_field⟩

/-- Settles O39: each word decoded. -/
theorem specWordsDecode : Obligations.SpecWordsDecode := by
  unfold Obligations.SpecWordsDecode
  decide

/-! ### Fault entry (60_exceptions.md R133) -/

/-- Fault entry records the two bytes of the word. -/
theorem State.raise_eq_bytes (s : State) (c : FaultCode) (w : Word) :
    s.raise c w = { s with
      code := some c, fphase := s.phase, badh := BitVec.ofNat 8 (w.toNat / 256)
      badl := BitVec.ofNat 8 w.toNat, phase := .fault, out := s.out ++ [.fault c] } := by
  have hhigh : w.extractLsb' 8 8 = BitVec.ofNat 8 (w.toNat / 256) := by
    apply BitVec.eq_of_toNat_eq
    simp [BitVec.extractLsb'_toNat, Nat.shiftRight_eq_div_pow]
  rw [State.raise, hhigh, ← dataField_eq_ofNat, dataField]

/-- No effect leads into FAULT (45_whole_run.md section 4). -/
theorem Does.phase_ne_fault {i : Instr} {s t : State} (h : Does s i t) (hs : s.phase ≠ .fault) :
    t.phase ≠ .fault := by
  cases h with
  | push b hp hfull => unfold State.pushEffect; split <;> simp
  | wrc r v hp => unfold State.writeReg; split <;> exact hs
  | rdr | dumpb | packb | xorb => exact hs
  | endStream | dumpx | packx | keyh | keyn | fin => simp

/-- Settles O29: outside FAULT neither the unchanged state nor an effect is in FAULT. -/
theorem faultEntryOfCommand : Obligations.FaultEntryOfCommand := by
  intro i s t h hs ht
  rcases exec_cases h with rfl | ⟨c, w, hw, -, rfl⟩ | hd
  · exact absurd ht hs
  · exact ⟨c, w, hw, s.raise_eq_bytes c w⟩
  · exact absurd ht (hd.phase_ne_fault hs)

/-- Settles O28: outside FAULT neither a held port nor an effect is in FAULT. -/
theorem faultEntryOfStep : Obligations.FaultEntryOfStep := by
  intro s t hr hs h ht
  obtain ⟨rest, rfl | ⟨c, w, hc, -, rfl⟩ | ⟨i, hd⟩⟩ := step_cases hr h
  · exact absurd ht hs
  · exact ⟨w, rest, c, hc, (s.ticked rest).raise_eq_bytes c w⟩
  · exact absurd ht (hd.phase_ne_fault hs)

/-! ### Illegal words (30_encoding.md R63) -/

theorem acceptWord_illegal {s : State} {w : Word} {e : BadWord} (hp : s.phase.takesFault)
    (h : decodeCommand w = .error e) :
    acceptWord w s = .next (s.raise (badWordFault e) w) := by
  obtain ⟨-, hf⟩ := (Phase.takesFault_iff _).1 hp
  rw [acceptWord_of_error h, State.rejectWord, if_neg hf]

theorem acceptWord_wrc_of_check_some {s : State} {w : Word} {r : RegIndex} {v : Byte}
    {c : FaultCode} (hp : s.phase.takesFault) (h : decodeCommand w = .ok (.wrc r v))
    (hc : s.wrcCheck r v = some c) : acceptWord w s = .next (s.raise c w) := by
  have hw : wordWrc r v = w := Code.cmd16.inj (commandWordHasOneMeaning w _ h)
  rw [acceptWord_of_ok h, exec_wrc_of_check_some hp hc, hw]

theorem acceptWord_rdr_reserved {s : State} {w : Word} {r : RegIndex} (hp : s.phase.takesFault)
    (h : decodeCommand w = .ok (.rdr r)) (hr : 13 ≤ r.toNat) :
    acceptWord w s = .next (s.raise .illfld w) := by
  have hw : wordRdr r = w := Code.cmd16.inj (commandWordHasOneMeaning w _ h)
  rw [acceptWord_of_ok h, exec_rdr_of_reserved hr hp, hw]

theorem regField_toNat (w : Word) : (regField w).toNat = w.toNat / 256 % 16 := by
  rw [regField_eq_ofNat, BitVec.toNat_ofNat]

theorem dataField_toNat (w : Word) : (dataField w).toNat = w.toNat % 256 := by
  rw [dataField_eq_ofNat, BitVec.toNat_ofNat]

theorem decodeCommand_wrc_range {w : Word} (h : w.toNat / 4096 = 3) :
    decodeCommand w = .ok (.wrc (regField w) (dataField w)) :=
  decodeCommand_of_op_three (opField_eq_of_div h)

theorem decodeCommand_rdr_of_data_zero {w : Word} (hop : w.toNat / 4096 = 4)
    (hd : w.toNat % 256 = 0) : decodeCommand w = .ok (.rdr (regField w)) := by
  have hdata : dataField w = 0 := BitVec.eq_of_toNat_eq (by rw [dataField_toNat, hd]; rfl)
  rw [decodeCommand_of_op_four (opField_eq_of_div hop), hdata]
  rfl

/-- Settles O6: each class of R63 is an error of the decoder or of the check of WRC or RDR, and the
step is then fault entry for the word. -/
theorem illegalWordTakesFault : Obligations.IllegalWordTakesFault := by
  intro s w rest hr hp hc entered
  have hb : isBusy s.phase = false := ((Phase.takesFault_iff _).1 hp).1
  have henter : ∀ c : FaultCode,
      acceptWord w (s.ticked rest) = .next ((s.ticked rest).raise c w) → step s = entered c := by
    intro c h
    rw [step_of_command hr hb hc, h, State.raise_eq_bytes]
    rfl
  have hp' : (s.ticked rest).phase.takesFault := hp
  have hreg := regField_toNat w
  refine ⟨fun h => ?_, fun ⟨h1, h2⟩ => ?_, fun ⟨h1, h2⟩ => ?_, fun ⟨h1, h2⟩ => ?_,
    fun ⟨h1, h2, h3⟩ => ?_, fun ⟨h1, h2⟩ => ?_, fun ⟨h1, h2⟩ => ?_, fun ⟨h1, h2⟩ => ?_⟩
  · have hd := decodeCommand_of_reserved (w := w) (by rw [opField_toNat]; omega)
    exact henter .illop (acceptWord_illegal hp' hd)
  · have hd := decodeCommand_nop_field (w := w) (by omega) (by omega)
    exact henter .illfld (acceptWord_illegal hp' hd)
  · have hd := decodeCommand_push_field (w := w) (by omega) (by omega)
    exact henter .illfld (acceptWord_illegal hp' hd)
  · have hd := decodeCommand_end_field (w := w) (by omega) (by omega)
    exact henter .illfld (acceptWord_illegal hp' hd)
  · have hd := decodeCommand_rdr_field (w := w) (by omega) h3
    exact henter .illfld (acceptWord_illegal hp' hd)
  · have hd := decodeCommand_wrc_range (w := w) (by omega)
    exact henter .illfld (acceptWord_wrc_of_check_some hp' hd
      (State.wrcCheck_of_reserved _ _ (by omega)))
  · by_cases h3 : w.toNat % 256 = 0
    · have hd := decodeCommand_rdr_of_data_zero (w := w) (by omega) h3
      exact henter .illfld (acceptWord_rdr_reserved hp' hd (by omega))
    · have hd := decodeCommand_rdr_field (w := w) (by omega) h3
      exact henter .illfld (acceptWord_illegal hp' hd)
  · have hd := decodeCommand_wrc_range (w := w) (by omega)
    have hctl : regField w = 4 := BitVec.eq_of_toNat_eq (by rw [hreg]; simp; omega)
    exact henter .illfld (acceptWord_wrc_of_check_some hp' hd
      (State.wrcCheck_of_ctl_reserved _ hctl (by rw [dataField_toNat]; omega)))

/-! ### Phase FAULT (60_exceptions.md R134, R135) -/

theorem acceptWord_fault_rdr {s : State} {w : Word} (hp : s.phase = .fault)
    (h : w &&& 0xF0FF = 0x4000 ∧ w.toNat / 256 % 16 ≤ 12) :
    ∃ v, s.readReg (regField w) = some v ∧
      acceptWord w s = .next (s.emit (.reg (regField w) v)) := by
  obtain ⟨hop, hdata⟩ := (matchesRdr_iff w).1 h.1
  have hd : decodeCommand w = .ok (.rdr (regField w)) := by
    rw [decodeCommand_of_op_four hop, hdata]; rfl
  obtain ⟨v, hv⟩ := s.readReg_of_rdrCheck_none (r := regField w)
    (rdrCheck_of_le (by rw [regField_toNat]; exact h.2))
  exact ⟨v, hv, by rw [acceptWord_of_ok hd, exec_rdr_of_readReg (by rw [hp]; rfl) hv]⟩

/-- "every other command is discarded" (R134). -/
theorem acceptWord_fault_discarded {s : State} {w : Word} (hp : s.phase = .fault)
    (h : ¬ (w &&& 0xF0FF = 0x4000 ∧ w.toNat / 256 % 16 ≤ 12)) : acceptWord w s = .next s := by
  cases hd : decodeCommand w with
  | error e => rw [acceptWord_of_error hd, State.rejectWord, if_pos hp]
  | ok i =>
    have hw := commandWordHasOneMeaning w i hd
    rw [acceptWord_of_ok hd]
    cases i with
    | nop => exact exec_nop s
    | push b => exact exec_push_of_fault hp
    | endStream f => exact exec_endStream_of_fault hp
    | wrc r v => exact exec_wrc_of_fault hp
    | rdr r =>
      refine exec_rdr_of_reserved_of_fault ?_ hp
      obtain rfl : wordRdr r = w := Code.cmd16.inj hw
      have hmask : wordRdr r &&& 0xF0FF = 0x4000 :=
        (matchesRdr_iff _).2 ⟨opField_fields _ r _, dataField_fields _ r _⟩
      have hr := wordRdr_toNat r
      have hidx : ¬ (wordRdr r).toNat / 256 % 16 ≤ 12 := fun hle => h ⟨hmask, hle⟩
      omega
    | dumpb | dumpx | packb | packx | keyh | xorb | keyn | fin => cases hw

/-- Settles O7: a readable register is read, and every other word, NOP's among them, leaves the
state as it was. -/
theorem faultPhaseTreatsWords : Obligations.FaultPhaseTreatsWords := by
  intro s w rest hr hp hc t readable
  have ht : (s.ticked rest).phase = .fault := hp
  rw [step_of_command hr (by rw [hp]; rfl) hc, ← regField_eq_ofNat]
  refine ⟨?_, acceptWord_fault_rdr ht, fun ⟨_, hn⟩ => acceptWord_fault_discarded ht hn⟩
  rintro rfl
  exact acceptWord_fault_discarded ht (by decide)

/-- In FAULT the effects are RDR's. -/
theorem Does.eq_of_fault {i : Instr} {s t : State} (h : Does s i t) (hs : s.phase = .fault) :
    t = { s with out := t.out } := by
  cases h with
  | rdr => rfl
  | push | endStream | wrc | dumpb | dumpx | packb | packx | keyh | xorb | keyn | fin => simp_all

/-- Settles O8: FAULT takes no second fault, and of the effects RDR's alone. -/
theorem onlyResetLeavesFault : Obligations.OnlyResetLeavesFault := by
  intro s t hr hp h
  obtain ⟨c, rfl | ⟨code, w, -, hf, rfl⟩ | ⟨i, hd⟩⟩ := step_cases hr h
  · rfl
  · exact absurd hp ((Phase.takesFault_iff _).1 hf).2
  · rw [hd.eq_of_fault hp]
    rfl

/-! ### Reading back a configuration write (20_memory.md R53) -/

/-- The legal configuration writes, register by register (R111). -/
theorem writable_cases {r : RegIndex} {v : Byte} (h : r.toNat ≤ 3 ∨ r = 4 ∧ v.toNat ≤ 1) :
    r = 0 ∨ r = 1 ∨ r = 2 ∨ r = 3 ∨ r = 4 ∧ (v = 0 ∨ v = 1) := by
  rcases h with h | ⟨rfl, h⟩
  · have hr : r = 0 ∨ r = 1 ∨ r = 2 ∨ r = 3 := by bv_omega
    tauto
  · have hv : v = 0 ∨ v = 1 := by bv_omega
    exact .inr (.inr (.inr (.inr ⟨rfl, hv⟩)))

theorem State.readReg_writeReg_same (s : State) {r : RegIndex} {v : Byte}
    (h : r.toNat ≤ 3 ∨ r = 4 ∧ v.toNat ≤ 1) : (s.writeReg r v).readReg r = some v := by
  have hctl : ∀ v : Byte, v = 0 ∨ v = 1 → 0#7 ++ BitVec.ofBool (v.getLsbD 0) = v := by
    rintro v (rfl | rfl) <;> decide
  rcases writable_cases h with rfl | rfl | rfl | rfl | ⟨rfl, hv⟩
  · rfl
  · rfl
  · rfl
  · rfl
  · exact congrArg some (hctl v hv)

theorem State.writeReg_phase (s : State) (r : RegIndex) (v : Byte) :
    (s.writeReg r v).phase = s.phase := by
  unfold State.writeReg; split <;> rfl

/-- Settles O19: the write makes the register read as the value written, and RDR emits it. -/
theorem wrcThenRdrReadsBack : Obligations.WrcThenRdrReadsBack := by
  intro s r v hp hw
  refine ⟨s.writeReg r v, exec_wrc_of_idle hp hw, ?_⟩
  have hb : isBusy (s.writeReg r v).phase = false := by rw [State.writeReg_phase, hp]; rfl
  rw [exec_rdr_of_readReg hb (s.readReg_writeReg_same hw), State.emit, State.writeReg_out]

end Sys2Proof.Machine
end

section
/-! ## Frames: what an operation and a step leave unchanged

The settled frame statements of the operations, and what no step changes, changes in one phase only,
or changes only along a list. -/

namespace Sys2Proof.Machine

/-! ### What the effects of PUSH and WRC leave unchanged -/

theorem State.pushEffect_frame (s : State) (b : Byte) :
    s.pushEffect b = { s with
      w0 := s.w1, w1 := s.w2, w2 := b, phase := .scan, acc := (s.pushEffect b).acc
      out := s.out ++ [.trace b (s.mflag b)] } := by
  by_cases h : s.pushRecognized b = true
  · rw [State.pushEffect_of_recognized h]
  · rw [State.pushEffect_of_not_recognized h]

/-- PUSH appends one bit to ACC, or none (41_marker_scanner.md R84). -/
theorem State.pushEffect_acc (s : State) (b : Byte) :
    (s.pushEffect b).acc = s.acc ++ if s.pushRecognized b then [payloadBit b] else [] := by
  by_cases h : s.pushRecognized b = true
  · rw [State.pushEffect_of_recognized h, if_pos h]
  · rw [State.pushEffect_of_not_recognized h, if_neg h, List.append_nil]

theorem State.writeReg_frame (s : State) (r : RegIndex) (v : Byte) :
    s.writeReg r v = { s with
      p1 := (s.writeReg r v).p1, p2 := (s.writeReg r v).p2, ia := (s.writeReg r v).ia
      ib := (s.writeReg r v).ib, any3 := (s.writeReg r v).any3 } := by
  unfold State.writeReg; split <;> rfl

/-- A write to one register keeps the others (44_config_and_status.md R111). -/
theorem State.writeReg_other (s : State) (r : RegIndex) (v : Byte) :
    (r ≠ 0 → (s.writeReg r v).p1 = s.p1) ∧ (r ≠ 1 → (s.writeReg r v).p2 = s.p2) ∧
    (r ≠ 2 → (s.writeReg r v).ia = s.ia) ∧ (r ≠ 3 → (s.writeReg r v).ib = s.ib) ∧
    (r ≠ 4 → (s.writeReg r v).any3 = s.any3) := by
  unfold State.writeReg
  split
  case h_1 h => simp [show r = 0 from BitVec.eq_of_toNat_eq h]
  case h_2 h => simp [show r = 1 from BitVec.eq_of_toNat_eq h]
  case h_3 h => simp [show r = 2 from BitVec.eq_of_toNat_eq h]
  case h_4 h => simp [show r = 3 from BitVec.eq_of_toNat_eq h]
  case h_5 h => simp [show r = 4 from BitVec.eq_of_toNat_eq h]
  case h_6 => simp

/-! ### The effects of the sequencer operations -/

/-- The sequencer operations but PACKB store nothing: whatever they change is IDX, KEY, PHASE or the
log. -/
theorem Does.sequencer_frame {i : Instr} {s t : State} (h : Does s i t)
    (hi : i ∈ sequencerOps) (hp : i ≠ .packb) :
    t = { s with idx := t.idx, key := t.key, phase := t.phase, out := t.out } := by
  cases h with
  | push | endStream | wrc | rdr => simp at hi
  | packb => exact absurd rfl hp
  | dumpb | dumpx | packx | keyh | xorb | keyn | fin => rfl

/-! ### Frames of the operations -/

/-- An operation that answers without a fault answers the unchanged state or has its effect. -/
theorem exec_cases_of_no_fault {i : Instr} {s t : State} (h : exec i s = .next t)
    (hf : t.phase = .fault → s.phase = .fault) : t = s ∨ Does s i t := by
  rcases exec_cases h with h | ⟨c, w, -, hp, rfl⟩ | h
  · exact .inl h
  · exact absurd (hf rfl) ((Phase.takesFault_iff _).1 hp).2
  · exact .inr h

/-- Both memories read as before where both are unchanged. -/
theorem State.reads_congr {s t : State} (ha : t.acc = s.acc) (hr : t.rb = s.rb) :
    (∀ a, t.readAcc a 1 = s.readAcc a 1) ∧ ∀ j, t.readRb j = s.readRb j :=
  ⟨fun a => State.readAcc_congr ha a 1, State.readRb_congr hr⟩

/-- Settles O30: NOP has no effect, RDR's is its record. -/
theorem frameOfNopAndRdr : Obligations.FrameOfNopAndRdr := by
  rintro i s t (rfl | ⟨r, rfl⟩) h hf <;> rcases exec_cases_of_no_fault h hf with rfl | hd
  · rfl
  · cases hd
  · rfl
  · cases hd; rfl

/-- An append to ACC leaves the read of every other address as it was. -/
theorem State.readAcc_appendAcc_of_ne (s : State) (b : Bool) (a : Nat) (h : a ≠ s.bitCnt) :
    (s.appendAcc b).readAcc a 1 = s.readAcc a 1 := by
  rcases Nat.lt_or_gt_of_ne h with hlt | hgt
  · exact s.readAcc_appendAcc_of_le b a 1 hlt
  · rw [State.readAcc, State.readAcc, State.appendAcc_bitCnt, if_neg (by omega), if_neg (by omega)]

/-- Settles O31: the one store of PUSH is the append to ACC. -/
theorem frameOfPush : Obligations.FrameOfPush := by
  intro b s t h hf
  rcases exec_cases_of_no_fault h hf with rfl | hd
  · exact ⟨rfl, fun _ _ => rfl, fun _ => rfl⟩
  · cases hd
    refine ⟨by rw [State.pushEffect_frame], fun a ha => ?_, fun j => ?_⟩
    · by_cases hr : s.pushRecognized b = true
      · rw [← s.readAcc_appendAcc_of_ne (payloadBit b) a ha]
        exact State.readAcc_congr (by rw [State.pushEffect_acc, if_pos hr]; rfl) a 1
      · exact State.readAcc_congr (by simp [State.pushEffect_acc, hr]) a 1
    · exact State.readRb_congr (by rw [State.pushEffect_frame]) j

/-- Settles O32: END writes three registers and no memory. -/
theorem frameOfEnd : Obligations.FrameOfEnd := by
  intro f s t h hf
  rcases exec_cases_of_no_fault h hf with rfl | hd
  · exact ⟨rfl, State.reads_congr rfl rfl⟩
  · cases hd
    exact ⟨rfl, State.reads_congr rfl rfl⟩

/-- Settles O33: the write of R111 addresses one register. -/
theorem frameOfWrc : Obligations.FrameOfWrc := by
  intro r v s t h hf
  rcases exec_cases_of_no_fault h hf with rfl | hd
  · exact ⟨rfl, fun _ => rfl, fun _ => rfl, fun _ => rfl, fun _ => rfl, fun _ => rfl,
      State.reads_congr rfl rfl⟩
  · cases hd
    obtain ⟨h0, h1, h2, h3, h4⟩ := s.writeReg_other r v
    exact ⟨s.writeReg_frame r v, h0, h1, h2, h3, h4,
      State.reads_congr (by rw [State.writeReg_frame]) (by rw [State.writeReg_frame])⟩

/-- Settles O34: by the effect of each operation. -/
theorem frameOfNonStoringOperations : Obligations.FrameOfNonStoringOperations := by
  intro i s t hi h
  have hseq : i ∈ sequencerOps := by fin_cases hi <;> simp
  have hd := does_of_exec_sequencerOp hseq h
  have hne : i ≠ .packb := by rintro rfl; simp at hi
  have hframe := hd.sequencer_frame hseq hne
  refine ⟨hframe, ?_, ?_, ?_, ?_, State.reads_congr (by rw [hframe]) (by rw [hframe])⟩ <;>
    cases hd <;> simp

/-- Settles O35: the one store of PACKB is the append to RB. -/
theorem frameOfPackb : Obligations.FrameOfPackb := by
  intro s t h
  cases does_of_exec_sequencerOp (by simp) h
  exact ⟨rfl, fun a => State.readAcc_congr rfl a 1, s.readRb_appendRb_of_ne _⟩

/-! ### What no step changes, and what it changes in one phase only -/

theorem Does.config {i : Instr} {s t : State} (h : Does s i t) : t.config = s.config := by
  cases h with
  | push => rw [State.pushEffect_frame]
  | wrc => rw [State.writeReg_frame]
  | endStream | rdr | dumpb | dumpx | packb | packx | keyh | xorb | keyn | fin => rfl

/-- Settles O52: no operation writes the parameter, and a reset event keeps it. -/
theorem parametersNeverChange : Obligations.ParametersNeverChange := by
  intro s t h
  by_cases hr : s.resets.head? = some 0
  · obtain rfl := Host.Outcome.next.inj ((step_of_due hr).symm.trans h)
    rfl
  · obtain ⟨c, rfl | ⟨code, w, -, -, rfl⟩ | ⟨i, hd⟩⟩ := step_cases hr h
    · rfl
    · rfl
    · exact hd.config

/-- The phases in which an effect writes ACC, RB and the configuration. -/
theorem Does.data_locked {i : Instr} {s t : State} (h : Does s i t) :
    (s.phase ≠ .idle ∧ s.phase ≠ .scan → t.acc = s.acc) ∧ (s.phase ≠ .pack → t.rb = s.rb) ∧
      (s.phase ≠ .idle → t.pattern = s.pattern) := by
  cases h with
  | push b hp =>
    rw [State.pushEffect_frame]
    exact ⟨fun ⟨hi, hs⟩ => absurd hp (by simp [hi, hs]), fun _ => rfl, fun _ => rfl⟩
  | wrc r v hp =>
    rw [State.writeReg_frame]
    exact ⟨fun _ => rfl, fun _ => rfl, fun hi => absurd hp hi⟩
  | packb hp => exact ⟨fun _ => rfl, fun hn => absurd hp hn, fun _ => rfl⟩
  | endStream | rdr | dumpb | dumpx | packx | keyh | xorb | keyn | fin =>
    exact ⟨fun _ => rfl, fun _ => rfl, fun _ => rfl⟩

/-- Settles O47: PUSH alone writes ACC, PACKB alone RB, and WRC alone the configuration. -/
theorem dataLockedByPhase : Obligations.DataLockedByPhase := by
  intro s t hr h
  obtain ⟨c, rfl | ⟨code, w, -, -, rfl⟩ | ⟨i, hd⟩⟩ := step_cases hr h
  · exact ⟨fun _ => rfl, fun _ => rfl, fun _ => rfl⟩
  · exact ⟨fun _ => rfl, fun _ => rfl, fun _ => rfl⟩
  · exact hd.data_locked

/-- The changes of PHASE that 45_whole_run.md section 4 lists, but fault entry. -/
theorem Does.phase_change {i : Instr} {s t : State} (h : Does s i t) :
    t.phase = s.phase ∨ (s.phase, t.phase) ∈
      [(Phase.idle, Phase.scan), (.idle, .dump), (.scan, .dump), (.dump, .pack), (.pack, .xorh),
        (.xorh, .xorb), (.xorb, .xorh), (.xorb, .done)] := by
  cases h with
  | push b hp => rw [State.pushEffect_frame]; rcases hp with hp | hp <;> simp [hp]
  | endStream f hp => rcases hp with hp | hp <;> simp [hp]
  | wrc r v => rw [State.writeReg_frame]; exact .inl rfl
  | rdr | dumpb | packb | xorb => exact .inl rfl
  | dumpx | packx | keyh | keyn | fin => simp [*]

/-- Settles O48: the effects change PHASE as listed, and fault entry from the three phases in which
a command can fault. -/
theorem phaseChangesOnlyAsListed : Obligations.PhaseChangesOnlyAsListed := by
  intro s t hr h
  obtain ⟨c, rfl | ⟨code, w, -, hp, rfl⟩ | ⟨i, hd⟩⟩ := step_cases hr h
  · exact .inl rfl
  · right
    rcases hp with hp | hp | hp <;> simp [hp]
  · refine hd.phase_change.imp_right fun hm => ?_
    exact List.mem_append_left [(Phase.idle, Phase.fault), (.scan, .fault), (.done, .fault)] hm

/-! ### The memories stay in form (20_memory.md R49) -/

theorem Does.keeps_memory_form {i : Instr} {s t : State} (h : Does s i t)
    (hs : Memory.wf s = true) : Memory.wf t = true := by
  cases h with
  | push b hp hfull =>
    by_cases hr : s.pushRecognized b = true
    · rw [State.pushEffect_of_recognized hr]
      exact Memory.wf_appendAcc (payloadBit b) hs (hfull hr)
    · rw [State.pushEffect_of_not_recognized hr]
      exact hs
  | wrc r v hp => rw [State.writeReg_frame]; exact hs
  | packb hp hn => exact Memory.wf_appendRb (packedByte s.acc s.rb.length) hs hn
  | endStream | rdr | dumpb | dumpx | packx | keyh | xorb | keyn | fin => exact hs

/-- Settles O46: PUSH appends below ACC_CAP, PACKB stores below the number of whole groups. -/
theorem stepKeepsMemoryForm : Obligations.StepKeepsMemoryForm :=
  fun _ _ hs h => step_keeps (P := fun s => Memory.wf s = true) (fun _ _ hs => hs)
    Memory.wf_resetEvent (fun _ _ _ _ hs => hs) (fun _ _ _ hd hs => hd.keeps_memory_form hs) hs h

end Sys2Proof.Machine
end

section
/-! ## What no operation depends on

A change of the state that commutes with the operations on registers and memories, and that the
checks do not see, commutes with every operation. The settled statements name four: more records in
the OUT log, another SRCFAIL, IA and IB exchanged, and other words at the port. -/

namespace Sys2Proof.Machine

theorem withRead_map {α : Type} {f : State → State} {read : Option α} {act act' : α → State}
    (hact : ∀ v, act' v = f (act v)) : withRead read act' = mapNext f (withRead read act) := by
  cases read with
  | none => rfl
  | some v => exact congrArg _ (hact v)

/-- The change `f` is seen by no check, no selection and no memory read, and commutes with the
writes that the operations share. Reads by RDR and the writes of END and WRC are left to
`exec_map`. A field that holds by definition need not be given. -/
structure Transparent (f : State → State) : Prop where
  phase : ∀ s, (f s).phase = s.phase := by intros; rfl
  select : ∀ s, (f s).select = s.select := by intros; rfl
  key : ∀ s, (f s).key = s.key := by intros; rfl
  idx : ∀ s, (f s).idx = s.idx := by intros; rfl
  acc : ∀ s, (f s).acc = s.acc := by intros; rfl
  rb : ∀ s, (f s).rb = s.rb := by intros; rfl
  accFull : ∀ s, (f s).accFull = s.accFull := by intros; rfl
  pushRecognized : ∀ s b, (f s).pushRecognized b = s.pushRecognized b := by intros; rfl
  mflag : ∀ s b, (f s).mflag b = s.mflag b := by intros; rfl
  shift : ∀ s b, (f s).shift b = f (s.shift b) := by intros; rfl
  appendAcc : ∀ s x, (f s).appendAcc x = f (s.appendAcc x) := by intros; rfl
  appendRb : ∀ s v, (f s).appendRb v = f (s.appendRb v) := by intros; rfl
  setPhase : ∀ s p, (f s).setPhase p = f (s.setPhase p) := by intros; rfl
  setIdx : ∀ s n, (f s).setIdx n = f (s.setIdx n) := by intros; rfl
  setKey : ∀ s k, (f s).setKey k = f (s.setKey k) := by intros; rfl
  emit : ∀ s rec, (f s).emit rec = f (s.emit rec) := by intros; rfl
  raise : ∀ s c w, (f s).raise c w = f (s.raise c w) := by intros; rfl

section
variable {f : State → State} (hf : Transparent f)
include hf

theorem Transparent.pushCheck (s : State) (b : Byte) : (f s).pushCheck b = s.pushCheck b := by
  rw [State.pushCheck, State.pushCheck, hf.phase, hf.pushRecognized, hf.accFull]

theorem Transparent.pushEffect (s : State) (b : Byte) :
    (f s).pushEffect b = f (s.pushEffect b) := by
  simp only [State.pushEffect, hf.shift, hf.mflag, hf.emit, hf.setPhase, hf.pushRecognized,
    hf.appendAcc]
  split <;> rfl

theorem Transparent.endCheck (s : State) : (f s).endCheck = s.endCheck := by
  rw [State.endCheck, State.endCheck, hf.phase]

theorem Transparent.wrcCheck (s : State) (r : RegIndex) (v : Byte) :
    (f s).wrcCheck r v = s.wrcCheck r v := by
  rw [State.wrcCheck, State.wrcCheck, hf.phase]

theorem Transparent.readAcc (s : State) (a n : Nat) : (f s).readAcc a n = s.readAcc a n :=
  State.readAcc_congr (hf.acc s) a n

theorem Transparent.readRb (s : State) (j : Nat) : (f s).readRb j = s.readRb j :=
  State.readRb_congr (hf.rb s) j

/-- A transparent change commutes with a command whose effect it commutes with where it is had. -/
theorem runCommand_map {w : Word} {d : InFault}
    {check : Option FaultCode} {effect : State → State} {s : State}
    (heffect : check = none → isBusy s.phase = false → (s.phase = .fault → d = .executes) →
      effect (f s) = f (effect s)) :
    runCommand w d check effect (f s) = mapNext f (runCommand w d check effect s) := by
  unfold runCommand
  rw [hf.phase]
  by_cases hb : isBusy s.phase = true
  · rw [if_pos hb, if_pos hb, mapNext]
  rw [if_neg hb, if_neg hb]
  rw [Bool.not_eq_true] at hb
  by_cases hp : s.phase = .fault
  · rw [if_pos hp, if_pos hp]
    by_cases hd : d = .executes ∧ check = none
    · rw [if_pos hd, if_pos hd, heffect hd.2 hb fun _ => hd.1, mapNext]
    · rw [if_neg hd, if_neg hd, mapNext]
  · rw [if_neg hp, if_neg hp]
    cases check with
    | none => exact congrArg _ (heffect rfl hb fun h => absurd h hp)
    | some c => exact congrArg _ (hf.raise s c w)

/-- A transparent change commutes with a sequencer operation it commutes with where it is
selected. -/
theorem runSelected_map {i : Instr} {act : State → Result} {s : State}
    (hact : act (f s) = mapNext f (act s)) :
    runSelected i act (f s) = mapNext f (runSelected i act s) := by
  unfold runSelected
  rw [hf.select]
  split
  · exact hact
  · rfl

/-- A transparent change commutes with every operation: with END where its write of SRCFAIL does,
with WRC where its write does, and with RDR where the register reads the same. -/
theorem exec_map (i : Instr) (s : State)
    (hend : ∀ g, i = .endStream g → s.phase = .idle ∨ s.phase = .scan →
      (f s).setSrcFail g = f (s.setSrcFail g))
    (hwrc : ∀ r v, i = .wrc r v → (f s).writeReg r v = f (s.writeReg r v))
    (hrdr : ∀ r, i = .rdr r → (f s).readReg r = s.readReg r) :
    exec i (f s) = mapNext f (exec i s) := by
  cases i with
  | nop => rw [exec_nop, exec_nop, mapNext]
  | push b =>
    rw [exec, exec, execPush, execPush, hf.pushCheck]
    exact runCommand_map hf fun _ _ _ => hf.pushEffect s b
  | endStream g =>
    rw [exec, exec, execEndStream, execEndStream, hf.endCheck]
    refine runCommand_map hf fun hc hb hp => ?_
    have hp' := idle_or_scan_of_effect hb hp (s.endCheck_none_iff.1 hc)
    simp only [hend g rfl hp', hf.setIdx, hf.setPhase]
  | wrc r v =>
    rw [exec, exec, execWrc, execWrc, hf.wrcCheck]
    exact runCommand_map hf fun _ _ _ => hwrc r v rfl
  | rdr r =>
    rw [exec, exec, execRdr, execRdr]
    refine runCommand_map hf fun hc _ _ => ?_
    obtain ⟨v, hv⟩ := s.readReg_of_rdrCheck_none hc
    rw [State.rdrEffect, State.rdrEffect, hrdr r rfl, hv]
    exact hf.emit s _
  | dumpb =>
    rw [exec, exec, execDumpb, execDumpb]
    refine runSelected_map hf ?_
    simp only [hf.readAcc, hf.idx, hf.emit, hf.setIdx]
    exact withRead_map fun _ => rfl
  | packb =>
    rw [exec, exec, execPackb, execPackb]
    refine runSelected_map hf ?_
    simp only [hf.readAcc, State.byteCnt, hf.rb, hf.emit, hf.appendRb]
    exact withRead_map fun _ => rfl
  | xorb =>
    rw [exec, exec, execXorb, execXorb]
    refine runSelected_map hf ?_
    simp only [hf.readRb, hf.key, hf.idx, hf.emit, hf.setIdx]
    exact withRead_map fun _ => rfl
  | dumpx =>
    rw [exec, exec, execDumpx, execDumpx]
    exact runSelected_map hf (by simp only [hf.setIdx, hf.setPhase, mapNext])
  | packx =>
    rw [exec, exec, execPackx, execPackx]
    exact runSelected_map hf (by simp only [hf.setKey, hf.setPhase, mapNext])
  | keyh =>
    rw [exec, exec, execKeyh, execKeyh]
    exact runSelected_map hf (by simp only [hf.key, hf.emit, hf.setIdx, hf.setPhase, mapNext])
  | keyn =>
    rw [exec, exec, execKeyn, execKeyn]
    exact runSelected_map hf (by simp only [hf.key, hf.setKey, hf.setPhase, mapNext])
  | fin =>
    rw [exec, exec, execFin, execFin]
    exact runSelected_map hf (by simp only [hf.emit, hf.setPhase, mapNext])

end

/-! ### The OUT log -/

/-- `s` with the records `o` before its OUT log. -/
def State.prependOut (o : List Record) (s : State) : State := { s with out := o ++ s.out }

theorem transparent_prependOut (o : List Record) : Transparent (State.prependOut o) where
  emit _ _ := by simp [State.emit, State.prependOut]
  raise _ _ _ := by simp [State.raise, State.prependOut]

theorem State.writeReg_prependOut (o : List Record) (s : State) (r : RegIndex) (v : Byte) :
    (s.prependOut o).writeReg r v = (s.writeReg r v).prependOut o := by
  unfold State.writeReg; split <;> rfl

theorem Does.out_append {i : Instr} {s t : State} (h : Does s i t) :
    t.out = s.out ∨ ∃ r, t.out = s.out ++ [r] := by
  cases h with
  | push => exact .inr ⟨_, State.pushEffect_out _ _⟩
  | wrc => exact .inl (State.writeReg_out _ _ _)
  | rdr | dumpb | packb | keyh | xorb | fin => exact .inr ⟨_, rfl⟩
  | endStream | dumpx | packx | keyn => exact .inl rfl

/-- Settles O49: prepending records is transparent, and each answer appends one record or none. -/
theorem outLogAppendedNeverRead : Obligations.OutLogAppendedNeverRead := by
  intro i s o
  refine ⟨exec_map (transparent_prependOut o) i s (fun _ _ _ => rfl)
    (fun r v _ => s.writeReg_prependOut o r v) (fun _ _ => rfl), fun t h => ?_⟩
  rcases exec_cases h with rfl | ⟨c, w, -, -, rfl⟩ | hd
  · exact .inl rfl
  · exact .inr ⟨.fault c, rfl⟩
  · exact hd.out_append

/-! ### SRCFAIL (10_state.md R23) -/

theorem transparent_setSrcFail (f : Bool) : Transparent (State.setSrcFail · f) where

theorem State.writeReg_setSrcFail (f : Bool) (s : State) (r : RegIndex) (v : Byte) :
    (s.setSrcFail f).writeReg r v = (s.writeReg r v).setSrcFail f := by
  unfold State.writeReg; split <;> rfl

/-- Only STATUS, index 5, shows SRCFAIL (10_state.md R24). -/
theorem State.readReg_setSrcFail (f : Bool) (s : State) {r : RegIndex} (h : r ≠ 5) :
    (s.setSrcFail f).readReg r = s.readReg r := by
  unfold State.readReg
  split
  case h_6 h5 => exact absurd (BitVec.eq_of_toNat_eq h5) h
  all_goals rfl

/-- Settles O50: END overwrites SRCFAIL before it is read; elsewhere setting it is transparent. -/
theorem srcFailReadOnlyByRdr : Obligations.SrcFailReadOnlyByRdr := by
  intro i s f hi writesIt
  refine ⟨?_, fun hn => ?_⟩
  · rintro ⟨⟨g, rfl⟩, hp⟩
    have hend := fun (u : State) (hu : u.phase = .idle ∨ u.phase = .scan) =>
      (endFollowsItsRule.1 u g).1 hu
    rw [hend s hp, hend { s with srcFail := f } hp]
  · refine exec_map (transparent_setSrcFail f) i s (fun g hg hp => absurd ⟨⟨g, hg⟩, hp⟩ hn)
      (fun r v _ => s.writeReg_setSrcFail f r v) (fun r hr => s.readReg_setSrcFail f ?_)
    rintro rfl
    exact hi hr

/-! ### IA and IB (10_state.md R12) -/

theorem transparent_swapIndicators : Transparent State.swapIndicators where
  pushRecognized s b := by
    simp [State.pushRecognized, State.recognizes, State.swapIndicators, Bool.or_right_comm]
  mflag s b := by simp [State.mflag, State.swapIndicators, Bool.or_right_comm]

/-- Only the registers 2 and 3 show IA and IB (10_state.md R24). -/
theorem State.readReg_swapIndicators (s : State) {r : RegIndex} (h2 : r ≠ 2) (h3 : r ≠ 3) :
    s.swapIndicators.readReg r = s.readReg r := by
  unfold State.readReg
  split
  case h_3 h => exact absurd (BitVec.eq_of_toNat_eq h) h2
  case h_4 h => exact absurd (BitVec.eq_of_toNat_eq h) h3
  all_goals rfl

/-- Settles O51: the recognition and the flag are symmetric in IA and IB. -/
theorem indicatorsInterchangeable : Obligations.IndicatorsInterchangeable := by
  intro i s hw h2 h3
  refine exec_map transparent_swapIndicators i s (fun _ _ _ => rfl)
    (fun r v h => absurd h (hw r v)) fun r hr => s.readReg_swapIndicators ?_ ?_
  · rintro rfl; exact h2 hr
  · rintro rfl; exact h3 hr

/-! ### The words at the port (60_exceptions.md R140) -/

/-- `s` with the words `c` at the port. -/
def State.present (c : List Word) (s : State) : State := { s with cmd := c }

theorem transparent_present (c : List Word) : Transparent (State.present c) where

theorem State.writeReg_present (c : List Word) (s : State) (r : RegIndex) (v : Byte) :
    (s.present c).writeReg r v = (s.writeReg r v).present c := by
  unfold State.writeReg; split <;> rfl

theorem Does.cmd {i : Instr} {s t : State} (h : Does s i t) : t.cmd = s.cmd := by
  cases h with
  | push => rw [State.pushEffect_frame]
  | wrc => rw [State.writeReg_frame]
  | endStream | rdr | dumpb | dumpx | packb | packx | keyh | xorb | keyn | fin => rfl

/-- Settles O9: the selected operation neither reads nor writes the port. -/
theorem busyPhasesHoldCommands : Obligations.BusyPhasesHoldCommands := by
  intro s c hb hr
  obtain ⟨i, hi⟩ := selected_of_busy hb
  have hic : decodeSelect (s.present c).select = some i := hi
  refine ⟨?_, ?_⟩
  · have hs := step_of_selected hr hi
    have hc := step_of_selected (s := s.present c) hr hic
    exact hc.trans ((exec_map (transparent_present c) i (s.ticked s.cmd) (fun _ _ _ => rfl)
      (fun r v _ => State.writeReg_present c _ r v) fun _ _ => rfl).trans
        (congrArg (mapNext _) hs.symm))
  · obtain ⟨t, ht, hd⟩ := exec_of_selected (s := s.ticked s.cmd) hi
    exact ⟨t, (step_of_selected hr hi).trans ht, hd.cmd⟩

end Sys2Proof.Machine
end

section
/-! ## The invariants of 10_state.md section 10 -/

namespace Sys2Proof.Machine

/-- Without a fault the fault record holds its reset values (10_state.md R16, R17). -/
def State.noFaultRecord (s : State) : Prop :=
  s.code = none ∧ s.fphase = .idle ∧ s.badh = 0x00 ∧ s.badl = 0x00

/-- `State.Inv` phase by phase, but for the capacity. -/
def State.PhaseInv (s : State) : Prop :=
  match s.phase with
  | .idle => s.noFaultRecord ∧ s.rb = [] ∧ s.acc = [] ∧ s.w0 = 0x00 ∧ s.w1 = 0x00 ∧ s.w2 = 0x00
  | .scan => s.noFaultRecord ∧ s.rb = []
  | .dump => s.noFaultRecord ∧ s.rb = [] ∧ s.idx ≤ s.acc.length
  | .pack => s.noFaultRecord ∧ s.rb.length ≤ s.acc.length / 8
  | .xorh => s.noFaultRecord ∧ s.rb.length = s.acc.length / 8
  | .xorb => s.noFaultRecord ∧ s.rb.length = s.acc.length / 8 ∧ s.idx ≤ s.rb.length
  | .done => s.noFaultRecord ∧ s.rb.length = s.acc.length / 8 ∧ s.key = 0xFF ∧
      s.idx = s.rb.length
  | .fault => s.code ≠ none ∧ ((s.fphase = .idle ∨ s.fphase = .scan) ∧ s.rb = [] ∨
      s.fphase = .done ∧ s.rb.length = s.acc.length / 8)

theorem State.PhaseInv.noFaultRecord {s : State} (h : s.PhaseInv) (hp : s.phase ≠ .fault) :
    s.noFaultRecord := by
  cases hp' : s.phase <;> simp_all [State.PhaseInv]

theorem State.PhaseInv.of_fault {s : State} (h : s.PhaseInv) (hp : s.phase = .fault) :
    s.code ≠ none ∧ ((s.fphase = .idle ∨ s.fphase = .scan) ∧ s.rb = [] ∨
      s.fphase = .done ∧ s.rb.length = s.acc.length / 8) := by
  simpa only [State.PhaseInv, hp] using h

/-- Where bytes stand in RB (10_state.md R26 (b), (c), (e)). -/
theorem State.PhaseInv.bytes {s : State} (h : s.PhaseInv) :
    s.rb = [] ∨ s.phase = .pack ∧ s.rb.length ≤ s.acc.length / 8 ∨
      (s.phase = .xorh ∨ s.phase = .xorb ∨ s.phase = .done ∨ s.faultedFrom .done) ∧
        s.rb.length = s.acc.length / 8 := by
  unfold State.PhaseInv at h
  unfold State.faultedFrom
  split at h <;> rename_i hp <;> simp only [hp] <;> tauto

theorem State.phaseInv_of_inv {s : State} (h : s.Inv) : s.PhaseInv := by
  obtain ⟨-, hle, hbytes, hpacked, hidle, hcode, hdump, hxorb, hdone, hfault, hrec⟩ := h
  have hrb : s.rb = [] ↔ s.rb.length = 0 := List.length_eq_zero_iff.symm
  have hacc : s.acc = [] ↔ s.acc.length = 0 := List.length_eq_zero_iff.symm
  unfold State.PhaseInv State.noFaultRecord
  cases hp : s.phase <;> grind [State.faultedFrom]

theorem State.inv_of_phaseInv {s : State} (hcap : withinCap s.config.accCap s.bitCnt = true)
    (h : s.PhaseInv) : s.Inv where
  bitCnt_le := hcap
  byteCnt_le := by
    rcases h.bytes with hb | ⟨-, hb⟩ | ⟨-, hb⟩
    · simp [State.byteCnt, hb]
    · exact hb
    · exact hb.le
  bytes_phase hpos := by
    rcases h.bytes with hb | ⟨hp, -⟩ | ⟨hp, -⟩
    · simp [State.byteCnt, hb] at hpos
    · exact .inl hp
    · exact .inr hp
  packed hp := by
    rcases hp with hp | hp | hp | ⟨hp, hq⟩
    · simp only [State.PhaseInv, hp] at h
      exact h.2
    · simp only [State.PhaseInv, hp] at h
      exact h.2.1
    · simp only [State.PhaseInv, hp] at h
      exact h.2.1
    · simpa [hq] using (h.of_fault hp).2
  idle_fresh hp := by
    simp only [State.PhaseInv, hp] at h
    exact ⟨by simp [h], h.2.2.2⟩
  code_iff := by
    by_cases hp : s.phase = .fault
    · simp [hp, (h.of_fault hp).1]
    · simp [hp, (h.noFaultRecord hp).1]
  idx_dump hp := by
    simp only [State.PhaseInv, hp] at h
    exact h.2.2
  idx_xorb hp := by
    simp only [State.PhaseInv, hp] at h
    exact h.2.2
  done_key hp := by
    simp only [State.PhaseInv, hp] at h
    exact h.2.2
  fault_phase hp := by
    have := (h.of_fault hp).2
    tauto
  no_fault_record hc := by
    refine (h.noFaultRecord fun hp => (h.of_fault hp).1 hc).2

/-! ### The effects and fault entry keep the invariants -/

theorem State.phaseInv_raise {s : State} (c : FaultCode) (w : Word) (hp : s.phase.takesFault)
    (h : s.PhaseInv) : (s.raise c w).PhaseInv := by
  refine ⟨Option.some_ne_none c, ?_⟩
  rcases hp with hp | hp | hp <;> simp only [State.PhaseInv, hp] at h <;>
    simp [hp, h]

theorem Does.keeps_phaseInv {i : Instr} {s t : State} (hd : Does s i t) (h : s.PhaseInv) :
    t.PhaseInv := by
  cases hd with
  | push b hp =>
    rw [State.pushEffect_frame]
    rcases hp with hp | hp <;> simp only [State.PhaseInv, hp] at h <;> exact ⟨h.1, by simp [h]⟩
  | endStream f hp =>
    rcases hp with hp | hp <;> simp only [State.PhaseInv, hp] at h <;>
      exact ⟨h.1, by simp [h], Nat.zero_le _⟩
  | wrc r v hp =>
    rw [State.writeReg_frame]
    exact h
  | rdr r v => exact h
  | dumpb x hp hx =>
    have hlt : s.idx < s.acc.length := (List.getElem?_eq_some_iff.1 hx).1
    simp only [State.PhaseInv, hp] at h ⊢
    exact ⟨h.1, h.2.1, hlt⟩
  | dumpx hp =>
    simp only [State.PhaseInv, hp] at h
    exact ⟨h.1, by simp [h]⟩
  | packb hp hn =>
    simp only [State.PhaseInv, hp] at h ⊢
    exact ⟨h.1, by simpa using hn⟩
  | packx hp hn =>
    simp only [State.PhaseInv, hp] at h
    exact ⟨h.1, Nat.le_antisymm h.2 hn⟩
  | keyh hp =>
    simp only [State.PhaseInv, hp] at h
    exact ⟨h.1, h.2, Nat.zero_le _⟩
  | xorb v hp hv =>
    have hlt : s.idx < s.rb.length := (List.getElem?_eq_some_iff.1 hv).1
    simp only [State.PhaseInv, hp] at h ⊢
    exact ⟨h.1, h.2.1, hlt⟩
  | keyn hp =>
    simp only [State.PhaseInv, hp] at h
    exact ⟨h.1, h.2.1⟩
  | fin hp hi hk =>
    simp only [State.PhaseInv, hp] at h
    exact ⟨h.1, h.2.1, hk, Nat.le_antisymm h.2.2 hi⟩

/-- PUSH appends below ACC_CAP only (10_state.md R26 (a)). -/
theorem Does.keeps_bitCnt_le {i : Instr} {s t : State} (hd : Does s i t)
    (h : withinCap s.config.accCap s.bitCnt = true) :
    withinCap t.config.accCap t.bitCnt = true := by
  cases hd with
  | push b hp hfull =>
    by_cases hr : s.pushRecognized b = true
    · have hne : s.config.accCap ≠ some s.bitCnt := fun he =>
        Bool.false_ne_true ((hfull hr).symm.trans (s.accFull_iff.2 he))
      rw [State.pushEffect_of_recognized hr]
      simpa [State.bitCnt] using withinCap_succ h hne
    · rw [State.pushEffect_of_not_recognized hr]
      exact h
  | wrc => rw [State.writeReg_frame]; exact h
  | endStream | rdr | dumpb | dumpx | packb | packx | keyh | xorb | keyn | fin => exact h

theorem State.inv_resetEvent (s : State) : s.resetEvent.Inv := by
  refine State.inv_of_phaseInv ?_ ⟨⟨rfl, rfl, rfl, rfl⟩, rfl, rfl, rfl, rfl, rfl⟩
  cases hc : s.config.accCap <;> simp [hc, withinCap, State.bitCnt]

/-- Settles O43: the invariants phase by phase, through each effect and fault entry. -/
theorem stepKeepsInvariant : Obligations.StepKeepsInvariant := by
  intro s t hs h
  refine step_keeps (P := State.Inv) ?_ State.inv_resetEvent ?_ ?_ hs h
  · exact fun s c hs =>
      State.inv_of_phaseInv (s := s.ticked c) hs.bitCnt_le
        (State.phaseInv_of_inv (s := s) hs)
  · exact fun s c w hp hs =>
      State.inv_of_phaseInv (s := s.raise c w) hs.bitCnt_le
        (s.phaseInv_raise c w hp (State.phaseInv_of_inv hs))
  · exact fun i s t hd hs =>
      State.inv_of_phaseInv (hd.keeps_bitCnt_le hs.bitCnt_le)
        (hd.keeps_phaseInv (State.phaseInv_of_inv hs))

end Sys2Proof.Machine
end

section
/-! ## The OUT log and the memories at every point of a run (45_whole_run.md section 2)

The log invariant through every step, and what follows from it: when the DONE record is in the log,
and that the bytes of RB expand to the bits of ACC. -/

namespace Sys2Proof.Machine

/-! ### The log of a stage in terms of the two memories -/

/-- The records after the TRACE records at this point of a run, written with what ACC and RB
hold. -/
def State.stageLog (s : State) : List Record :=
  match s.stage with
  | .idle => []
  | .scan => []
  | .dump => bitLog (s.acc.take s.idx)
  | .pack => bitLog s.acc ++ rbyteLog s.rb
  | .xorh => bitLog s.acc ++ rbyteLog s.rb ++ keyLog s.rb s.key.toNat
  | .xorb => bitLog s.acc ++ rbyteLog s.rb ++ keyLog s.rb s.key.toNat ++
      (keyGroup s.rb s.key.toNat).take (s.idx + 1)
  | .done => bitLog s.acc ++ rbyteLog s.rb ++ keyLog s.rb 256 ++ [.done]
  | .fault => []

theorem packedBytes_length (bits : List Bool) : (packedBytes bits).length = bits.length / 8 := by
  simp [packedBytes]

/-- With every whole group packed, RB holds all the bytes of `rb`. -/
theorem State.rb_eq_packedBytes {s : State} (hrb : s.rb = (packedBytes s.acc).take s.byteCnt)
    (hn : s.rb.length = s.acc.length / 8) : s.rb = packedBytes s.acc := by
  rw [hrb, List.take_of_length_le]
  rw [packedBytes_length, ← hn]

theorem State.stage_of_ne_fault {s : State} (h : s.phase ≠ .fault) : s.stage = s.phase := if_neg h

theorem State.stage_of_fault {s : State} (h : s.phase = .fault) : s.stage = s.fphase := if_pos h

/-- Which bytes stand in RB at each stage (10_state.md R26 (e)). -/
theorem State.PhaseInv.packed {s : State} (h : s.PhaseInv)
    (hst : s.stage = .xorh ∨ s.stage = .xorb ∨ s.stage = .done) :
    s.rb.length = s.acc.length / 8 := by
  by_cases hp : s.phase = .fault
  · rw [State.stage_of_fault hp] at hst
    rcases (h.of_fault hp).2 with ⟨hf, -⟩ | ⟨-, hn⟩
    · rcases hf with hf | hf <;> simp [hf] at hst
    · exact hn
  · rw [State.stage_of_ne_fault hp] at hst
    rcases hst with hst | hst | hst <;> simp only [State.PhaseInv, hst] at h <;> simp [h]

/-- The records R121 gives for the stream so far are the TRACE records and the stage's. -/
theorem State.expectedLog_eq {s : State} (h : s.PhaseInv)
    (hacc : s.acc = runBits s.pattern s.traced)
    (hrb : s.rb = (packedBytes s.acc).take s.byteCnt) :
    s.expectedLog = traceLog s.pattern s.traced ++ s.stageLog := by
  have hpacked := fun hst => State.rb_eq_packedBytes hrb (h.packed hst)
  simp only [State.expectedLog, State.stageLog, ← hacc]
  cases hst : s.stage with
  | idle | scan | dump | fault => rfl
  | pack => rw [← hrb]
  | xorh | xorb | done => rw [← hpacked (by simp [hst])]

theorem filterMap_tracedByte_append (log more : List Record)
    (h : more.filterMap tracedByte = []) :
    (log ++ more).filterMap tracedByte = log.filterMap tracedByte := by
  rw [List.filterMap_append, h, List.append_nil]

/-- An operation that keeps pattern, window and accumulator, appends records other than TRACE, and
extends the stage's log by its data records, keeps the log invariant. -/
theorem State.LogInv.of_append {s t : State} (hs : s.LogInv) (hsi : s.PhaseInv) (hti : t.PhaseInv)
    (hidle : t.phase = .idle → s.phase = .idle) (hpat : t.pattern = s.pattern)
    (hacc : t.acc = s.acc) (hwin : (t.w0, t.w1, t.w2) = (s.w0, s.w1, s.w2))
    (hrb : t.rb = (packedBytes s.acc).take t.byteCnt) (more : List Record)
    (hout : t.out = s.out ++ more) (htrace : more.filterMap tracedByte = [])
    (hlog : s.stageLog ++ more.filter isDataRecord = t.stageLog) : t.LogInv := by
  have htraced : t.traced = s.traced := by
    rw [State.traced, hout, filterMap_tracedByte_append _ _ htrace, State.traced]
  have haccT : t.acc = runBits t.pattern t.traced := by rw [hacc, hpat, htraced, hs.acc_bits]
  have hrbT : t.rb = (packedBytes t.acc).take t.byteCnt := by rw [hacc, hrb]
  refine ⟨fun hp => htraced.trans (hs.idle_untraced (hidle hp)), haccT, hrbT, ?_, ?_⟩
  · rw [hwin, htraced, hs.window]
  · rw [State.expectedLog_eq hti haccT hrbT, hout, List.filter_append, hs.log,
      State.expectedLog_eq hsi hs.acc_bits hs.rb_bytes, List.append_assoc, hlog, hpat, htraced]

/-! ### Commands -/

theorem State.logInv_resetEvent (s : State) : s.resetEvent.LogInv where
  idle_untraced _ := rfl
  acc_bits := rfl
  rb_bytes := rfl
  window := rfl
  log := rfl

theorem State.logInv_raise {s : State} (c : FaultCode) (w : Word) (hp : s.phase.takesFault)
    (hsi : s.PhaseInv) (hs : s.LogInv) : (s.raise c w).LogInv := by
  refine hs.of_append hsi (s.phaseInv_raise c w hp hsi) nofun rfl rfl rfl hs.rb_bytes [.fault c] rfl
    rfl ?_
  have hst : (s.raise c w).stage = s.stage :=
    (State.stage_of_ne_fault ((Phase.takesFault_iff _).1 hp).2).symm
  simp [State.stageLog, hst, isDataRecord]

/-- The window of the last byte is that of the decode function (41_marker_scanner.md R86). -/
theorem byteBefore_snoc (bytes : List Byte) (b : Byte) :
    byteBefore (bytes ++ [b]) bytes.length 2 = (lastWindow bytes).2.1 ∧
      byteBefore (bytes ++ [b]) bytes.length 1 = (lastWindow bytes).2.2 ∧
      byteBefore (bytes ++ [b]) bytes.length 0 = b := by
  have h := lastWindow_snoc bytes b
  simpa [lastWindow, windowAt] using h

/-- The recognition of PUSH is the recognition of the decode function at the new byte. -/
theorem State.pushRecognized_eq_recognizedAt {s : State} {bytes : List Byte}
    (hwin : (s.w0, s.w1, s.w2) = lastWindow bytes) (b : Byte) :
    s.pushRecognized b = recognizedAt s.pattern (bytes ++ [b]) bytes.length := by
  obtain ⟨h2, h1, h0⟩ := byteBefore_snoc bytes b
  rw [← hwin] at h2 h1
  rw [Bool.eq_iff_iff, State.pushRecognized_iff, recognizedAt, h2, h1, h0, decide_eq_true_iff]
  rfl

theorem State.mflag_eq_flagOf (s : State) (b : Byte) : s.mflag b = flagOf s.pattern b := by
  rw [State.mflag_eq_decide]
  rfl

/-- PUSH brings the accumulator from the bits of the stream to those of the stream with the byte. -/
theorem State.pushEffect_acc_eq_runBits {s : State} {bytes : List Byte}
    (hwin : (s.w0, s.w1, s.w2) = lastWindow bytes) (hacc : s.acc = runBits s.pattern bytes)
    (b : Byte) : (s.pushEffect b).acc = runBits s.pattern (bytes ++ [b]) := by
  rw [State.pushEffect_acc, runBits_snoc, ← hacc, s.pushRecognized_eq_recognizedAt hwin,
    payloadBit_eq_decide]

theorem State.pushEffect_window {s : State} {bytes : List Byte}
    (hwin : (s.w0, s.w1, s.w2) = lastWindow bytes) (b : Byte) :
    ((s.pushEffect b).w0, (s.pushEffect b).w1, (s.pushEffect b).w2) =
      lastWindow (bytes ++ [b]) := by
  rw [lastWindow_snoc, ← hwin, State.pushEffect_frame]

theorem traceLog_snoc (c : Pattern) (bytes : List Byte) (b : Byte) :
    traceLog c (bytes ++ [b]) = traceLog c bytes ++ [.trace b (flagOf c b)] := by
  simp [traceLog]

theorem State.pushEffect_pattern (s : State) (b : Byte) :
    (s.pushEffect b).pattern = s.pattern := by
  rw [State.pushEffect_frame]
  rfl

theorem State.logInv_pushEffect {s : State} (b : Byte) (hp : s.phase = .idle ∨ s.phase = .scan)
    (hti : (s.pushEffect b).PhaseInv) (hsi : s.PhaseInv) (hs : s.LogInv) :
    (s.pushEffect b).LogInv := by
  have hphase : (s.pushEffect b).phase = .scan := by rw [State.pushEffect_frame]
  have hrb : (s.pushEffect b).rb = [] := by
    simp only [State.PhaseInv, hphase] at hti
    exact hti.2
  have htraced : (s.pushEffect b).traced = s.traced ++ [b] := by
    rw [State.traced, State.pushEffect_out, List.filterMap_append]
    rfl
  have hacc : (s.pushEffect b).acc = runBits (s.pushEffect b).pattern (s.pushEffect b).traced := by
    rw [State.pushEffect_acc_eq_runBits hs.window hs.acc_bits, s.pushEffect_pattern, htraced]
  have hrb' : (s.pushEffect b).rb =
      (packedBytes (s.pushEffect b).acc).take (s.pushEffect b).byteCnt := by
    simp [State.byteCnt, hrb]
  have hstage : s.stageLog = [] := by
    rcases hp with hp | hp <;> simp [State.stageLog, State.stage, hp]
  have hstage' : (s.pushEffect b).stageLog = [] := by simp [State.stageLog, State.stage, hphase]
  refine ⟨fun h => ?_, hacc, hrb', ?_, ?_⟩
  · rw [hphase] at h; cases h
  · rw [State.pushEffect_window hs.window, htraced]
  · rw [State.expectedLog_eq hti hacc hrb', State.pushEffect_out, List.filter_append, hs.log,
      State.expectedLog_eq hsi hs.acc_bits hs.rb_bytes, hstage, hstage', List.append_nil,
      List.append_nil, htraced, traceLog_snoc, s.pushEffect_pattern, s.mflag_eq_flagOf]
    rfl

/-- A state in IDLE with no byte streamed and no data record emitted meets the log invariant. -/
theorem State.logInv_of_idle {s : State} (hp : s.phase = .idle) (htr : s.traced = [])
    (hacc : s.acc = []) (hrb : s.rb = []) (hwin : (s.w0, s.w1, s.w2) = lastWindow [])
    (hlog : s.out.filter isDataRecord = []) : s.LogInv where
  idle_untraced _ := htr
  acc_bits := by rw [htr, hacc]; rfl
  rb_bytes := by simp [State.byteCnt, hrb]
  window := by rw [htr, hwin]
  log := by
    have hst : s.stage = .idle := (State.stage_of_ne_fault (by simp [hp])).trans hp
    simp [State.expectedLog, hst, htr, hlog, traceLog]

theorem State.LogInv.filter_out_of_idle {s : State} (hs : s.LogInv) (hsi : s.PhaseInv)
    (hp : s.phase = .idle) : s.out.filter isDataRecord = [] := by
  rw [hs.log, State.expectedLog_eq hsi hs.acc_bits hs.rb_bytes, hs.idle_untraced hp]
  simp [State.stageLog, State.stage, hp, traceLog]

/-- WRC changes the configuration where the stream is still empty. -/
theorem State.logInv_writeReg {s : State} (r : RegIndex) (v : Byte) (hp : s.phase = .idle)
    (hsi : s.PhaseInv) (hs : s.LogInv) : (s.writeReg r v).LogInv := by
  have htr := hs.idle_untraced hp
  have hwin := hs.window
  rw [htr] at hwin
  have hfilter := hs.filter_out_of_idle hsi hp
  simp only [State.PhaseInv, hp] at hsi
  obtain ⟨-, hrb, hacc, -⟩ := hsi
  rw [State.writeReg_frame]
  exact State.logInv_of_idle hp htr hacc hrb hwin hfilter

/-! ### Sequencer operations -/

theorem bitLog_take_succ {bits : List Bool} {n : Nat} {x : Bool} (h : bits[n]? = some x) :
    bitLog (bits.take (n + 1)) = bitLog (bits.take n) ++ [.bit (BitVec.ofBool x)] := by
  simp [bitLog, List.take_add_one, h]

/-- One byte more of a key's group (43_xor_key_iterator.md R101). -/
theorem keyGroup_take_succ {rb : List Byte} {n : Nat} {v : Byte} (k : Byte)
    (h : rb[n]? = some v) :
    (keyGroup rb k.toNat).take (n + 2) =
      (keyGroup rb k.toNat).take (n + 1) ++ [.cand (v ^^^ k)] := by
  simp [keyGroup, candidate, List.take_add_one, h]

theorem keyGroup_take_one (rb : List Byte) (k : Byte) :
    (keyGroup rb k.toNat).take 1 = [.keyrec k] := by
  simp [keyGroup]

theorem keyGroup_take_all (rb : List Byte) (k : Nat) :
    (keyGroup rb k).take (rb.length + 1) = keyGroup rb k := by
  simp [keyGroup, candidate]

/-- KEYN does not wrap, so its key's group follows the groups so far (43_xor_key_iterator.md
R102). -/
theorem keyLog_key_succ (rb : List Byte) {k : Byte} (hk : k ≠ 0xFF) :
    keyLog rb (k + 1).toNat = keyLog rb k.toNat ++ keyGroup rb k.toNat := by
  have hkey : (k + 1).toNat = k.toNat + 1 := by bv_omega
  rw [hkey, keyLog_succ]

/-- Every effect keeps the log invariant: PUSH by the growth of the decode function, WRC by the
empty stream, the others by the records they append. -/
theorem Does.keeps_logInv {i : Instr} {s t : State} (hd : Does s i t) (hsi : s.PhaseInv)
    (hs : s.LogInv) : t.LogInv := by
  have hti := hd.keeps_phaseInv hsi
  have hsi' := hsi
  cases hd with
  | push b hp => exact State.logInv_pushEffect b hp hti hsi hs
  | wrc r v hp => exact State.logInv_writeReg r v hp hsi hs
  | endStream f hp =>
    refine hs.of_append hsi hti nofun rfl rfl rfl hs.rb_bytes [] (by simp) rfl ?_
    rcases hp with hp | hp <;> simp [State.stageLog, State.stage, hp, bitLog]
  | rdr r v =>
    exact hs.of_append hsi hti id rfl rfl rfl hs.rb_bytes [.reg r v] rfl rfl (List.append_nil _)
  | dumpb x hp hx =>
    refine hs.of_append hsi hti id rfl rfl rfl hs.rb_bytes [.bit (BitVec.ofBool x)] rfl rfl ?_
    simp [State.stageLog, State.stage, hp, bitLog_take_succ hx, isDataRecord]
  | dumpx hp hi =>
    simp only [State.PhaseInv, hp] at hsi'
    obtain ⟨-, hrb, -⟩ := hsi'
    refine hs.of_append hsi hti nofun rfl rfl rfl hs.rb_bytes [] (by simp) rfl ?_
    simp [State.stageLog, State.stage, hp, List.take_of_length_le hi, hrb, rbyteLog]
  | packb hp hn =>
    refine hs.of_append hsi hti (by simp [hp]) rfl rfl rfl ?_ [.rbyte _] rfl rfl ?_
    · rw [State.byteCnt, List.length_append, List.length_singleton, packedBytes_take_succ _ _ hn]
      exact congrArg (· ++ [packedByte s.acc s.rb.length]) hs.rb_bytes
    · simp [State.stageLog, State.stage, hp, rbyteLog, isDataRecord]
  | packx hp hn =>
    refine hs.of_append hsi hti nofun rfl rfl rfl hs.rb_bytes [] (by simp) rfl ?_
    simp [State.stageLog, State.stage, hp, keyLog]
  | keyh hp =>
    refine hs.of_append hsi hti nofun rfl rfl rfl hs.rb_bytes [.keyrec s.key] rfl rfl ?_
    simp [State.stageLog, State.stage, hp, keyGroup_take_one, isDataRecord]
  | xorb v hp hv =>
    refine hs.of_append hsi hti (by simp [hp]) rfl rfl rfl hs.rb_bytes [.cand (v ^^^ s.key)] rfl rfl
      ?_
    simp [State.stageLog, State.stage, hp, keyGroup_take_succ s.key hv, isDataRecord]
  | keyn hp hi hk =>
    simp only [State.PhaseInv, hp] at hsi'
    obtain ⟨-, -, hle⟩ := hsi'
    have hidx : s.idx = s.rb.length := Nat.le_antisymm hle hi
    refine hs.of_append hsi hti nofun rfl rfl rfl hs.rb_bytes [] (by simp) rfl ?_
    simpa [State.stageLog, State.stage, hp, hidx, keyGroup_take_all] using
      (keyLog_key_succ s.rb hk).symm
  | fin hp hi hk =>
    simp only [State.PhaseInv, hp] at hsi'
    obtain ⟨-, -, hle⟩ := hsi'
    have hidx : s.idx = s.rb.length := Nat.le_antisymm hle hi
    have hlast : keyLog s.rb 256 = keyLog s.rb s.key.toNat ++ keyGroup s.rb s.key.toNat := by
      rw [hk]
      exact keyLog_succ s.rb 255
    refine hs.of_append hsi hti nofun rfl rfl rfl hs.rb_bytes [.done] rfl rfl ?_
    simp [State.stageLog, State.stage, hp, hlast, hidx, keyGroup_take_all, isDataRecord]

theorem State.logInv_ticked {s : State} (c : List Word) (hs : s.LogInv) : (s.ticked c).LogInv where
  idle_untraced := hs.idle_untraced
  acc_bits := hs.acc_bits
  rb_bytes := hs.rb_bytes
  window := hs.window
  log := hs.log

/-- Settles O44: with the state invariants, through each effect, fault entry and reset. -/
theorem stepKeepsLogInvariant : Obligations.StepKeepsLogInvariant := by
  intro s t hi hs h
  refine (step_keeps (P := fun s => s.PhaseInv ∧ s.LogInv) ?_ ?_ ?_ ?_
    ⟨State.phaseInv_of_inv hi, hs⟩ h).2
  · exact fun s c ⟨hi, hs⟩ => ⟨hi, State.logInv_ticked c hs⟩
  · exact fun s => ⟨State.phaseInv_of_inv s.inv_resetEvent, s.logInv_resetEvent⟩
  · exact fun s c w hp ⟨hi, hs⟩ => ⟨s.phaseInv_raise c w hp hi, State.logInv_raise c w hp hi hs⟩
  · exact fun i s t hd ⟨hi, hs⟩ => ⟨hd.keeps_phaseInv hi, hd.keeps_logInv hi hs⟩

/-- Settles O42: the reset state is what a reset event makes of itself. -/
theorem invariantHoldsAtReset : Obligations.InvariantHoldsAtReset :=
  ⟨State.inv_resetEvent .reset, State.logInv_resetEvent .reset, Memory.wf_resetEvent .reset⟩

/-! ### The DONE record (00_scope.md R5) -/

theorem done_mem_expectedLog_iff (s : State) : Record.done ∈ s.expectedLog ↔ s.stage = .done := by
  have htrace : ∀ c bytes, Record.done ∉ traceLog c bytes := by simp [traceLog]
  have hbit : ∀ bits, Record.done ∉ bitLog bits := by simp [bitLog]
  have hrbyte : ∀ rb, Record.done ∉ rbyteLog rb := by simp [rbyteLog]
  have hgroup : ∀ rb k, Record.done ∉ keyGroup rb k := by simp [keyGroup, candidate]
  have htake : ∀ rb k n, Record.done ∉ (keyGroup rb k).take n := fun rb k n h =>
    hgroup rb k (List.mem_of_mem_take h)
  cases hst : s.stage <;>
    simp [State.expectedLog, hst, htrace, hbit, hrbyte, keyLog, hgroup, htake]

/-- Settles O45: the DONE record is a data record, and of the stages only DONE's log holds it. -/
theorem doneRecordMeansCompletedRun : Obligations.DoneRecordMeansCompletedRun := by
  intro s hi hs
  have hmem : Record.done ∈ s.out ↔ Record.done ∈ s.out.filter isDataRecord := by
    simp [List.mem_filter, isDataRecord]
  rw [hmem, hs.log, done_mem_expectedLog_iff, State.Complete, State.faultedFrom]
  by_cases hp : s.phase = .fault
  · simp [State.stage_of_fault hp, hp]
  · simp [State.stage_of_ne_fault hp, hp]

end Sys2Proof.Machine
end

section
/-! ## Reads of ACC and the bytes of RB (20_memory.md R42, 42_accumulator_packer.md section 3) -/

namespace Sys2Proof.Machine

/-! ### The value of a bit sequence -/

theorem bitsValue_snoc (bits : List Bool) (x : Bool) :
    bitsValue (bits ++ [x]) = 2 * bitsValue bits + x.toNat := by
  simp [bitsValue]

/-- "the bit at the lowest address is the most significant" (R42). -/
theorem testBit_bitsValue (bits : List Bool) (t : Nat) (h : t < bits.length) :
    (bitsValue bits).testBit (bits.length - 1 - t) = bits.getD t false := by
  induction bits using List.reverseRecOn generalizing t with
  | nil => simp at h
  | append_singleton bits x ih =>
    rw [bitsValue_snoc]
    rcases Nat.lt_or_ge t bits.length with hlt | hge
    · have hexp : (bits ++ [x]).length - 1 - t = bits.length - 1 - t + 1 := by simp; omega
      have hdiv : (2 * bitsValue bits + x.toNat) / 2 = bitsValue bits := by
        have := x.toNat_lt
        omega
      rw [hexp, Nat.testBit_succ, hdiv, ih t hlt, List.getD_append _ _ _ _ hlt]
    · obtain rfl : t = bits.length := by simp at h; omega
      cases x <;> simp [Nat.testBit_zero]

/-- Settles O53: the bits read are those at the addresses from `a` on, most significant first. -/
theorem accReadMostSignificantFirst : Obligations.AccReadMostSignificantFirst := by
  refine fun s a n => ⟨fun h => ?_, fun h => if_neg (Nat.not_le.2 h)⟩
  refine ⟨_, if_pos h, fun t ht => ?_⟩
  have hlen : ((s.acc.drop a).take n).length = n := by simp; omega
  have hbit := testBit_bitsValue ((s.acc.drop a).take n) t (by rw [hlen]; exact ht)
  rw [hlen] at hbit
  rw [BitVec.getLsbD_ofNat, decide_eq_true (by omega), Bool.true_and, hbit,
    List.getD_eq_getElem?_getD, List.getElem?_take_of_lt ht, List.getElem?_drop,
    List.getD_eq_getElem?_getD]

/-! ### The packed bytes expanded (R96) -/

theorem packedByte_getLsbD (bits : List Bool) (j t : Nat) (h : j < bits.length / 8) (ht : t < 8) :
    (packedByte bits j).getLsbD (7 - t) = bits.getD (8 * j + t) false := by
  have hle : 8 * j + 8 ≤ bits.length := by omega
  obtain ⟨v, hv, hbits⟩ :=
    (accReadMostSignificantFirst { State.reset with acc := bits } (8 * j) 8).1 hle
  obtain rfl := Option.some.inj ((readAcc_group _ j hle).symm.trans hv)
  exact hbits t ht

/-- The bits of a packed byte are its group. -/
theorem byteBits_packedByte (bits : List Bool) (j : Nat) (h : j < bits.length / 8) :
    byteBits (packedByte bits j) = (bits.drop (8 * j)).take 8 := by
  refine List.ext_getElem (by simp [byteBits]; omega) fun t ht ht' => ?_
  have ht8 : t < 8 := by simpa [byteBits] using ht
  simp only [byteBits, List.getElem_map, List.getElem_range, List.getElem_take, List.getElem_drop]
  rw [packedByte_getLsbD bits j t h ht8, List.getD_eq_getElem _ _ (by omega)]

theorem flatMap_byteBits_packedBytes_take (bits : List Bool) (n : Nat) (h : n ≤ bits.length / 8) :
    ((packedBytes bits).take n).flatMap byteBits = bits.take (8 * n) := by
  induction n with
  | zero => simp
  | succ n ih =>
    rw [packedBytes_take_succ bits n h, List.flatMap_append, ih (by omega), List.flatMap_singleton,
      byteBits_packedByte bits n h, Nat.mul_succ, List.take_add]

/-- Settles O54: RB holds the first packed bytes, and each expands to its group. -/
theorem packedBytesReproduceAccumulator : Obligations.PackedBytesReproduceAccumulator := by
  intro s hs
  have hle : s.byteCnt ≤ s.acc.length / 8 := by
    have hlen := congrArg List.length hs.rb_bytes
    rw [List.length_take, packedBytes_length] at hlen
    exact hlen.trans_le (Nat.min_le_right _ _)
  conv_lhs => rw [hs.rb_bytes]
  exact flatMap_byteBits_packedBytes_take s.acc s.byteCnt hle

end Sys2Proof.Machine
end

section
/-! ## Runs of the sequencer (42_accumulator_packer.md, 43_xor_key_iterator.md section 2)

From END's state on: the dump phase, the pack phase and the key loop, each by induction on the
elements its loop has left. -/

namespace Sys2Proof.Machine

/-! ### Runs as a relation -/

/-- `k` steps lead from `s` to `t`. -/
def Runs (k : Nat) (s t : State) : Prop := Host.Core.run Sys2Proof.core k s = .next t

theorem Runs.refl (s : State) : Runs 0 s s := rfl

theorem Runs.step {k : Nat} {s t u : State} (h : Machine.step s = .next t) (hrun : Runs k t u) :
    Runs (k + 1) s u :=
  (run_succ_of_next h k).trans hrun

theorem Runs.one {s t : State} (h : Machine.step s = .next t) : Runs 1 s t := .step h (.refl t)

theorem Runs.trans {a b : Nat} {s t u : State} (h : Runs a s t) (hrun : Runs b t u) :
    Runs (a + b) s u :=
  (run_add_of_next h b).trans hrun

theorem step_eq_exec_of_selected {s : State} {i : Instr} (hr : s.resets = [])
    (h : decodeSelect s.select = some i) : step s = exec i s := by
  rw [step_of_no_resets s hr, blockStep, h]

/-- With no reset to come, the step is the selected operation's effect. -/
theorem step_of_selected_exec {s t : State} {i : Instr} (hr : s.resets = [])
    (h : decodeSelect s.select = some i ∧ exec i s = .next t) : step s = .next t :=
  (step_eq_exec_of_selected hr h.1).trans h.2

/-! ### The dump phase -/

theorem bitLog_drop {bits : List Bool} {n : Nat} (h : n < bits.length) :
    bitLog (bits.drop n) = .bit (BitVec.ofBool bits[n]) :: bitLog (bits.drop (n + 1)) := by
  rw [List.drop_eq_getElem_cons h]
  rfl

theorem runs_dump (n : Nat) : ∀ s : State, s.phase = .dump → s.idx + n = s.acc.length →
    s.resets = [] → Runs (n + 1) s { s with
      idx := 0, phase := .pack, out := s.out ++ bitLog (s.acc.drop s.idx) } := by
  induction n with
  | zero =>
    intro s hp hn hr
    rw [List.drop_of_length_le (by omega), bitLog, List.map_nil, List.append_nil]
    exact .one (step_of_selected_exec hr (dumpxEntersPack s hp hn))
  | succ n ih =>
    intro s hp hn hr
    have hlt : s.idx < s.acc.length := by omega
    have hstep := step_of_selected_exec hr
      (dumpbEmitsBit s _ hp (List.getElem?_eq_getElem hlt))
    have hrun := Runs.step hstep (ih _ hp (by simp only; omega) hr)
    rw [bitLog_drop hlt]
    simpa using hrun

/-- Settles O55: by induction on the bits left to emit. -/
theorem dumpPhaseEmitsAccumulator : Obligations.DumpPhaseEmitsAccumulator :=
  fun s hp hle hr => runs_dump _ s hp (by omega) hr

/-! ### The pack phase -/

theorem packedBytes_drop {bits : List Bool} {n : Nat} (h : n < bits.length / 8) :
    (packedBytes bits).drop n = packedByte bits n :: (packedBytes bits).drop (n + 1) := by
  have hlen : n < (packedBytes bits).length := by rwa [packedBytes_length]
  rw [List.drop_eq_getElem_cons hlen]
  simp [packedBytes]

theorem runs_pack (n : Nat) : ∀ s : State, s.phase = .pack → s.rb.length + n = s.acc.length / 8 →
    s.resets = [] → Runs (n + 1) s { s with
      rb := s.rb ++ (packedBytes s.acc).drop s.rb.length
      key := 0x00, phase := .xorh
      out := s.out ++ rbyteLog ((packedBytes s.acc).drop s.rb.length) } := by
  induction n with
  | zero =>
    intro s hp hn hr
    rw [List.drop_of_length_le (by rw [packedBytes_length]; omega), rbyteLog, List.map_nil,
      List.append_nil, List.append_nil]
    exact .one (step_of_selected_exec hr (packxStartsKeyLoop s hp hn))
  | succ n ih =>
    intro s hp hn hr
    have hlt : s.rb.length < s.acc.length / 8 := by omega
    have hstep := step_of_selected_exec hr (packbStoresPackedByte s hp hlt)
    have hrun := Runs.step hstep (ih _ hp (by simp; omega) hr)
    rw [packedBytes_drop hlt]
    simpa [rbyteLog] using hrun

/-- Settles O56: by induction on the groups left to pack. -/
theorem packPhaseEmitsWholeGroups : Obligations.PackPhaseEmitsWholeGroups :=
  fun s hp hle hr => runs_pack _ s hp (by omega) hr

/-! ### The key loop -/

/-- XORB emits the rest of the key's group. -/
theorem runs_xorb (n : Nat) : ∀ s : State, s.phase = .xorb → s.idx + n = s.rb.length →
    s.resets = [] → Runs n s { s with
      idx := s.rb.length
      out := s.out ++ ((s.rb.drop s.idx).map fun v => .cand (v ^^^ s.key)) } := by
  induction n with
  | zero =>
    intro s hp hn hr
    have hidx : s.idx = s.rb.length := hn
    rw [List.drop_of_length_le (by omega), List.map_nil, List.append_nil, ← hidx]
    exact .refl s
  | succ n ih =>
    intro s hp hn hr
    have hlt : s.idx < s.rb.length := by omega
    have hstep := step_of_selected_exec hr
      (xorbEmitsCandidate s _ hp (List.getElem?_eq_getElem hlt))
    have hrun := Runs.step hstep (ih _ hp (by simp only; omega) hr)
    rw [List.drop_eq_getElem_cons hlt, List.map_cons]
    simpa [ofNat_xor_toNat, -List.map_drop] using hrun

theorem keyGroup_toNat (rb : List Byte) (k : Byte) :
    keyGroup rb k.toNat = .keyrec k :: rb.map fun v => .cand (v ^^^ k) := by
  simp [keyGroup, candidate]

/-- From XORH the whole group of the key is emitted, in one step and one step per byte. -/
theorem runs_group (s : State) (hp : s.phase = .xorh) (hr : s.resets = []) :
    Runs (s.rb.length + 1) s { s with
      idx := s.rb.length, phase := .xorb, out := s.out ++ keyGroup s.rb s.key.toNat } := by
  have hstep := step_of_selected_exec hr (keyhEmitsHeader s hp)
  have hrun := Runs.step hstep (runs_xorb s.rb.length _ rfl (Nat.zero_add _) hr)
  rw [keyGroup_toNat]
  simpa using hrun

/-- The group of a key before the last, and KEYN. -/
theorem runs_to_next_key (s : State) (hp : s.phase = .xorh) (hk : s.key ≠ 0xFF)
    (hr : s.resets = []) :
    Runs (s.rb.length + 2) s { s with
      key := s.key + 1, idx := s.rb.length, phase := .xorh
      out := s.out ++ keyGroup s.rb s.key.toNat } := by
  obtain ⟨hsel, -, he⟩ := keynAdvancesKey { s with
    idx := s.rb.length, phase := .xorb, out := s.out ++ keyGroup s.rb s.key.toNat } rfl rfl hk
  rw [ofNat_toNat_succ] at he
  exact (runs_group s hp hr).trans (.one (step_of_selected_exec hr ⟨hsel, he⟩))

theorem runs_keys (m : Nat) : ∀ s : State, s.phase = .xorh → s.key.toNat + m = 255 →
    s.resets = [] → Runs ((m + 1) * (s.rb.length + 2)) s { s with
      key := 0xFF, idx := s.rb.length, phase := .done
      out := s.out ++ (List.range' s.key.toNat (m + 1)).flatMap (keyGroup s.rb) ++ [.done] } := by
  induction m with
  | zero =>
    intro s hp hm hr
    have hk : s.key = 0xFF := BitVec.eq_of_toNat_eq hm
    have hrun := (runs_group s hp hr).trans
      (.one (step_of_selected_exec hr (finCompletesRun _ rfl rfl hk)))
    rw [Nat.zero_add, Nat.one_mul]
    simpa [hk] using hrun
  | succ m ih =>
    intro s hp hm hr
    have hk : s.key ≠ 0xFF := by bv_omega
    have hkey : (s.key + 1).toNat = s.key.toNat + 1 := by bv_omega
    have hrest := ih { s with
      key := s.key + 1, idx := s.rb.length, phase := .xorh
      out := s.out ++ keyGroup s.rb s.key.toNat } rfl (by rw [hkey]; omega) hr
    have hrun := (runs_to_next_key s hp hk hr).trans hrest
    rw [hkey] at hrun
    rw [Nat.succ_mul, Nat.add_comm, List.range'_succ, List.flatMap_cons]
    simpa using hrun

/-- Settles O57: by induction on the keys left, each a group and KEYN, the last a group and FIN. -/
theorem keyLoopEmitsAllKeys : Obligations.KeyLoopEmitsAllKeys := by
  intro s hp hr
  have hlt := s.key.isLt
  have hm : 256 - s.key.toNat = 255 - s.key.toNat + 1 := by omega
  rw [hm]
  exact runs_keys _ s hp (by omega) hr

end Sys2Proof.Machine
end

section
/-! ## Whole runs (45_whole_run.md sections 1 and 2)

A run from a fresh state: the configuration commands, the stream, END, and the sequencer; and the
run whose accumulator overflows. -/

namespace Sys2Proof.Machine

/-! ### Logs with the REG records left out -/

@[simp] theorem withoutReg_append (log more : List Record) :
    withoutReg (log ++ more) = withoutReg log ++ withoutReg more :=
  List.filter_append ..

theorem withoutReg_eq_self {log : List Record} (h : ∀ r ∈ log, isRegRecord r = false) :
    withoutReg log = log :=
  List.filter_eq_self.2 fun r hr => by simp [h r hr]

theorem withoutReg_bitLog (bits : List Bool) : withoutReg (bitLog bits) = bitLog bits :=
  withoutReg_eq_self (by simp only [bitLog, List.mem_map]; rintro r ⟨x, -, rfl⟩; rfl)

theorem withoutReg_rbyteLog (rb : List Byte) : withoutReg (rbyteLog rb) = rbyteLog rb :=
  withoutReg_eq_self (by simp only [rbyteLog, List.mem_map]; rintro r ⟨v, -, rfl⟩; rfl)

theorem withoutReg_keyLog (rb : List Byte) (n : Nat) : withoutReg (keyLog rb n) = keyLog rb n :=
  withoutReg_eq_self (by
    simp only [keyLog, keyGroup, candidate, List.mem_flatMap, List.mem_cons, List.mem_map]
    rintro r ⟨k, -, rfl | ⟨c, -, rfl⟩⟩ <;> rfl)

/-! ### One command of a plain run -/

theorem step_eq_exec_of_command {s : State} {w : Word} {rest : List Word} {i : Instr}
    (hr : s.resets = []) (hb : isBusy s.phase = false) (hc : s.cmd = w :: rest)
    (hd : decodeCommand w = .ok i) : step s = exec i { s with cmd := rest } := by
  rw [step_of_no_resets s hr, blockStep, decodeSelect_of_not_busy hb, hc]
  exact acceptWord_of_ok hd _

theorem step_nop {s : State} {rest : List Word} (hr : s.resets = []) (hb : isBusy s.phase = false)
    (hc : s.cmd = wordNop :: rest) : step s = .next { s with cmd := rest } :=
  (step_eq_exec_of_command hr hb hc rfl).trans (exec_nop _)

theorem step_rdr {s : State} {r : RegIndex} {rest : List Word} (hr : s.resets = [])
    (hb : isBusy s.phase = false) (hc : s.cmd = wordRdr r :: rest) (hle : r.toNat ≤ 12) :
    ∃ v, step s = .next { s with cmd := rest, out := s.out ++ [.reg r v] } := by
  obtain ⟨v, hv⟩ := State.readReg_of_rdrCheck_none (s := { s with cmd := rest })
    (rdrCheck_of_le hle)
  exact ⟨v, (step_eq_exec_of_command hr hb hc (decodeCommand_wordRdr r)).trans
    (exec_rdr_of_readReg hb hv)⟩

/-! ### The configuration commands -/

/-- `s` with the configuration `c`, the OUT log `log` and the words `cmds` at the port. -/
def State.configured (s : State) (c : Pattern) (log : List Record) (cmds : List Word) : State :=
  { s with
    p1 := c.p1, p2 := c.p2, ia := c.ia, ib := c.ib, any3 := c.any3, out := log, cmd := cmds }

@[simp] theorem State.configured_pattern (s : State) (c : Pattern) (log : List Record)
    (cmds : List Word) : (s.configured c log cmds).pattern = c := rfl

@[simp] theorem State.configured_out (s : State) (c : Pattern) (log : List Record)
    (cmds : List Word) : (s.configured c log cmds).out = log := rfl

theorem State.writeReg_configured (s : State) (c : Pattern) (log : List Record) (cmds : List Word)
    {r : RegIndex} {v : Byte} (h : r.toNat ≤ 3 ∨ r = 4 ∧ v.toNat ≤ 1) :
    (s.configured c log cmds).writeReg r v = s.configured (c.write r v) log cmds := by
  rcases writable_cases h with rfl | rfl | rfl | rfl | ⟨rfl, rfl | rfl⟩ <;> rfl

theorem Pattern.configure_cons (c : Pattern) (x : PlainCommand) (cmds : List PlainCommand) :
    c.configure (x :: cmds) = (c.configure [x]).configure cmds := by
  cases x <;> rfl

/-- A command before the first PUSH writes the configuration or emits a REG record, or neither. -/
theorem step_configure (s : State) (c : Pattern) (log : List Record) {x : PlainCommand}
    {rest : List Word} (hp : s.phase = .idle) (hr : s.resets = []) (ha : x.allowed = true)
    (hx : x.pushed = none) :
    ∃ more, withoutReg more = [] ∧ step (s.configured c log (x.word :: rest)) =
      .next (s.configured (c.configure [x]) (log ++ more) rest) := by
  have hb : isBusy (s.configured c log (x.word :: rest)).phase = false := by
    rw [show (s.configured c log (x.word :: rest)).phase = .idle from hp]; rfl
  cases x with
  | nop =>
    refine ⟨[], rfl, ?_⟩
    rw [List.append_nil]
    exact step_nop hr hb rfl
  | rdr r =>
    obtain ⟨v, hv⟩ := step_rdr (s := s.configured c log (wordRdr r :: rest)) hr hb rfl
      (of_decide_eq_true ha)
    exact ⟨[.reg r v], rfl, hv⟩
  | wrc r v =>
    have hw : r.toNat ≤ 3 ∨ r = 4 ∧ v.toNat ≤ 1 := by simpa [PlainCommand.allowed] using ha
    refine ⟨[], rfl, ?_⟩
    rw [List.append_nil]
    refine (step_eq_exec_of_command (s := s.configured c log _) hr hb rfl
      (decodeCommand_wordWrc r v)).trans ?_
    refine (exec_wrc_of_idle (s := s.configured c log rest) hp hw).trans ?_
    exact congrArg _ (s.writeReg_configured c log rest hw)
  | push b => cases hx

theorem runs_configure (s : State) (hp : s.phase = .idle) (hr : s.resets = [])
    (cmds : List PlainCommand) : ∀ (c : Pattern) (log : List Record) (rest : List Word),
    (∀ x ∈ cmds, x.allowed = true) → (∀ x ∈ cmds, x.pushed = none) →
    ∃ more, withoutReg more = [] ∧ Runs cmds.length
      (s.configured c log (cmds.map PlainCommand.word ++ rest))
      (s.configured (c.configure cmds) (log ++ more) rest) := by
  induction cmds with
  | nil => exact fun c log rest _ _ => ⟨[], rfl, by rw [List.append_nil]; exact .refl _⟩
  | cons x cmds ih =>
    intro c log rest ha hx
    rw [List.forall_mem_cons] at ha hx
    obtain ⟨more, hmore, hstep⟩ := step_configure s c log
      (rest := cmds.map PlainCommand.word ++ rest) hp hr ha.1 hx.1
    obtain ⟨more', hmore', hrun⟩ := ih (c.configure [x]) (log ++ more) rest ha.2 hx.2
    refine ⟨more ++ more', by rw [withoutReg_append, hmore, hmore']; rfl, ?_⟩
    rw [Pattern.configure_cons, ← List.append_assoc]
    exact .step hstep hrun

/-! ### The stream -/

/-- The state a run from `s` stands in after the stream bytes `bytes`, with the OUT log `log` and
the words `cmds` at the port. -/
def State.scanned (s : State) (bytes : List Byte) (log : List Record) (cmds : List Word) : State :=
  { s with
    w0 := (lastWindow bytes).1, w1 := (lastWindow bytes).2.1, w2 := (lastWindow bytes).2.2
    acc := runBits s.pattern bytes, phase := if bytes = [] then .idle else .scan
    out := log, cmd := cmds }

theorem State.scanned_phase (s : State) (bytes : List Byte) (log : List Record)
    (cmds : List Word) :
    (s.scanned bytes log cmds).phase = .idle ∨ (s.scanned bytes log cmds).phase = .scan := by
  simp only [State.scanned]
  split
  · exact .inl rfl
  · exact .inr rfl

theorem State.scanned_not_busy (s : State) (bytes : List Byte) (log : List Record)
    (cmds : List Word) : isBusy (s.scanned bytes log cmds).phase = false := by
  rcases s.scanned_phase bytes log cmds with h | h <;> simp [h, isBusy]

theorem State.pushEffect_scanned (s : State) (bytes : List Byte) (log : List Record)
    (cmds : List Word) (b : Byte) :
    (s.scanned bytes log cmds).pushEffect b =
      s.scanned (bytes ++ [b]) (log ++ [.trace b (flagOf s.pattern b)]) cmds := by
  have hacc : ((s.scanned bytes log cmds).pushEffect b).acc = runBits s.pattern (bytes ++ [b]) :=
    State.pushEffect_acc_eq_runBits (s := s.scanned bytes log cmds) rfl rfl b
  rw [State.pushEffect_frame, hacc, State.mflag_eq_flagOf]
  simp [State.scanned, lastWindow_snoc, State.pattern]

/-- The window that PUSH of `b` completes is recognized where the decode function says so. -/
theorem State.pushRecognized_scanned (s : State) (bytes : List Byte) (log : List Record)
    (cmds : List Word) (b : Byte) :
    (s.scanned bytes log cmds).pushRecognized b =
      recognizedAt s.pattern (bytes ++ [b]) bytes.length :=
  State.pushRecognized_eq_recognizedAt (s := s.scanned bytes log cmds) rfl b

/-- While the bits fit the capacity, PUSH of a recognized window finds the accumulator not full. -/
theorem State.pushCheck_scanned (s : State) (bytes : List Byte) (log : List Record)
    (cmds : List Word) (b : Byte)
    (hcap : withinCap s.config.accCap (runBits s.pattern (bytes ++ [b])).length = true) :
    (s.scanned bytes log cmds).pushCheck b = none := by
  refine State.pushCheck_eq_none
    (State.ne_done_of_idle_or_scan (s.scanned_phase bytes log cmds)) fun hrec => ?_
  rw [s.pushRecognized_scanned] at hrec
  rw [← Bool.not_eq_true, State.accFull_iff]
  intro hfull
  have hfull' : s.config.accCap = some (runBits s.pattern bytes).length := hfull
  rw [runBits_snoc, hrec, hfull'] at hcap
  simp [withinCap] at hcap

theorem step_push {s : State} {bytes : List Byte} {log : List Record} {rest : List Word} {b : Byte}
    (hr : s.resets = [])
    (hcap : withinCap s.config.accCap (runBits s.pattern (bytes ++ [b])).length = true) :
    step (s.scanned bytes log (wordPush b :: rest)) =
      .next (s.scanned (bytes ++ [b]) (log ++ [.trace b (flagOf s.pattern b)]) rest) := by
  rw [← State.pushEffect_scanned]
  have hexec := exec_push_of_check_none (s.scanned_phase bytes log rest)
    (s.pushCheck_scanned bytes log rest b hcap)
  exact (step_eq_exec_of_command (s := s.scanned bytes log _) hr (s.scanned_not_busy bytes log _)
    rfl (decodeCommand_wordPush b)).trans hexec

/-- A command of the stream part: PUSH takes its byte, RDR emits a REG record, NOP does nothing. -/
theorem step_scan {s : State} (bytes : List Byte) (log : List Record) {x : PlainCommand}
    {rest : List Word} (hr : s.resets = []) (ha : x.allowed = true) (hx : x.written = none)
    (hcap : withinCap s.config.accCap
      (runBits s.pattern (bytes ++ streamOf [x])).length = true) :
    ∃ more, withoutReg more = traceLog s.pattern (streamOf [x]) ∧
      ((∀ r, x ≠ .rdr r) → withoutReg more = more) ∧
      step (s.scanned bytes log (x.word :: rest)) =
        .next (s.scanned (bytes ++ streamOf [x]) (log ++ more) rest) := by
  have hb := s.scanned_not_busy bytes log (x.word :: rest)
  cases x with
  | nop =>
    refine ⟨[], rfl, fun _ => rfl, ?_⟩
    rw [List.append_nil, show streamOf [.nop] = [] from rfl, List.append_nil]
    exact step_nop hr hb rfl
  | rdr r =>
    obtain ⟨v, hv⟩ := step_rdr (s := s.scanned bytes log _) hr hb rfl (of_decide_eq_true ha)
    refine ⟨[.reg r v], rfl, fun h => absurd rfl (h r), ?_⟩
    rw [show streamOf [.rdr r] = [] from rfl, List.append_nil]
    exact hv
  | wrc r v => cases hx
  | push b => exact ⟨_, rfl, fun _ => rfl, step_push hr hcap⟩

theorem runBits_length_le_append (c : Pattern) (bytes more : List Byte) :
    (runBits c bytes).length ≤ (runBits c (bytes ++ more)).length := by
  induction more using List.reverseRecOn with
  | nil => rw [List.append_nil]
  | append_singleton more b ih =>
    rw [← List.append_assoc, runBits_snoc, List.length_append]
    omega

theorem withinCap_of_le {cap : Option Nat} {m n : Nat} (h : withinCap cap n = true) (hle : m ≤ n) :
    withinCap cap m = true := by
  cases cap with
  | none => rfl
  | some k =>
    simp only [withinCap, decide_eq_true_eq] at *
    omega

theorem streamOf_cons (x : PlainCommand) (cmds : List PlainCommand) :
    streamOf (x :: cmds) = streamOf [x] ++ streamOf cmds :=
  List.filterMap_append (l := [x])

theorem runs_scan {s : State} (hr : s.resets = []) (cmds : List PlainCommand) :
    ∀ (bytes : List Byte) (log : List Record) (rest : List Word),
    (∀ x ∈ cmds, x.allowed = true) → (∀ x ∈ cmds, x.written = none) →
    withinCap s.config.accCap (runBits s.pattern (bytes ++ streamOf cmds)).length = true →
    ∃ more, withoutReg more = traceLog s.pattern (streamOf cmds) ∧
      ((∀ r, .rdr r ∉ cmds) → withoutReg more = more) ∧
      Runs cmds.length (s.scanned bytes log (cmds.map PlainCommand.word ++ rest))
        (s.scanned (bytes ++ streamOf cmds) (log ++ more) rest) := by
  induction cmds with
  | nil =>
    intro bytes log rest _ _ _
    refine ⟨[], rfl, fun _ => rfl, ?_⟩
    rw [List.append_nil, show streamOf [] = [] from rfl, List.append_nil]
    exact .refl _
  | cons x cmds ih =>
    intro bytes log rest ha hx hcap
    rw [List.forall_mem_cons] at ha hx
    rw [streamOf_cons, ← List.append_assoc] at hcap ⊢
    have hcap1 := withinCap_of_le hcap (runBits_length_le_append _ _ _)
    obtain ⟨more, hmore, hself, hstep⟩ := step_scan bytes log
      (rest := cmds.map PlainCommand.word ++ rest) hr ha.1 hx.1 hcap1
    obtain ⟨more', hmore', hself', hrun⟩ := ih (bytes ++ streamOf [x]) (log ++ more) rest ha.2 hx.2
      hcap
    refine ⟨more ++ more', ?_, fun hno => ?_, ?_⟩
    · rw [withoutReg_append, hmore, hmore', traceLog, traceLog, traceLog, List.map_append]
    · have hne : ∀ r, x ≠ .rdr r := fun r h => hno r (h ▸ List.mem_cons_self)
      rw [withoutReg_append, hself hne, hself' fun r h => hno r (List.mem_cons_of_mem _ h)]
    · rw [← List.append_assoc]
      exact .step hstep hrun

/-! ### From END to the end of the run (R121 to R123) -/

theorem step_end {s : State} {f : Bool} {rest : List Word} (hr : s.resets = [])
    (hp : s.phase = .idle ∨ s.phase = .scan) (hc : s.cmd = wordEnd f :: rest) :
    step s = .next { s with cmd := rest, srcFail := f, idx := 0, phase := .dump } := by
  have hb : isBusy s.phase = false := by rcases hp with h | h <;> simp [h, isBusy]
  exact (step_eq_exec_of_command hr hb hc (decodeCommand_wordEnd f)).trans
    ((endFollowsItsRule.1 { s with cmd := rest } f).1 hp)

/-- The sequencer's steps after END: the dump phase, the pack phase and the key loop. -/
theorem runs_sequencer {s : State} {bits : List Bool} (hp : s.phase = .dump) (hi : s.idx = 0)
    (hacc : s.acc = bits) (hrb : s.rb = []) (hr : s.resets = []) :
    Runs (sequencerSteps bits.length) s { s with
      idx := bits.length / 8, phase := .done, rb := packedBytes bits, key := 0xFF
      out := s.out ++ bitLog bits ++ rbyteLog (packedBytes bits) ++
        keyLog (packedBytes bits) 256 ++ [.done] } := by
  subst hacc
  have hdump := runs_dump s.acc.length s hp (by omega) hr
  rw [hi, List.drop_zero, hrb] at hdump
  have hpack := runs_pack (s.acc.length / 8)
    { s with idx := 0, phase := .pack, rb := [], out := s.out ++ bitLog s.acc } rfl (by simp) hr
  simp only [List.nil_append, List.length_nil, List.drop_zero] at hpack
  have hkeys := runs_keys 255
    { s with
      idx := 0, phase := .xorh, rb := packedBytes s.acc, key := 0x00
      out := s.out ++ bitLog s.acc ++ rbyteLog (packedBytes s.acc) } rfl rfl hr
  simp only [packedBytes_length] at hkeys
  have hlog : (List.range' 0 256).flatMap (keyGroup (packedBytes s.acc)) =
      keyLog (packedBytes s.acc) 256 := by rw [keyLog, List.range_eq_range']
  rw [← hlog]
  exact (hdump.trans hpack).trans hkeys

/-! ### The runs of the specification -/

/-- A fresh state is one with no byte streamed. -/
theorem State.scanned_nil {s : State} (hp : s.phase = .idle) (hacc : s.acc = [])
    (h0 : s.w0 = 0x00) (h1 : s.w1 = 0x00) (h2 : s.w2 = 0x00) :
    s.scanned [] s.out s.cmd = s := by
  cases s
  simp_all [State.scanned, lastWindow, runBits]

theorem runLog_eq (c : Pattern) (bytes : List Byte) :
    runLog c bytes = traceLog c bytes ++ bitLog (runBits c bytes) ++
      rbyteLog (packedBytes (runBits c bytes)) ++ keyLog (packedBytes (runBits c bytes)) 256 ++
      [.done] :=
  rfl

/-- From a state with no byte streamed, the stream part, END and the sequencer complete the run. -/
theorem runs_stream {s : State} (hr : s.resets = []) (hrb : s.rb = [])
    (hstart : s.scanned [] s.out s.cmd = s) {scan : List PlainCommand} {f : Bool} {rest : List Word}
    (hcmd : s.cmd = scan.map PlainCommand.word ++ wordEnd f :: rest)
    (ha : ∀ x ∈ scan, x.allowed = true) (hw : ∀ x ∈ scan, x.written = none)
    (hcap : withinCap s.config.accCap (runBits s.pattern (streamOf scan)).length = true) :
    let bits := runBits s.pattern (streamOf scan)
    let w := lastWindow (streamOf scan)
    ∃ more, withoutReg more = traceLog s.pattern (streamOf scan) ∧
      Runs (scan.length + 1 + sequencerSteps bits.length) s { s with
        cmd := rest, phase := .done, srcFail := f, w0 := w.1, w1 := w.2.1, w2 := w.2.2
        acc := bits, rb := packedBytes bits, key := 0xFF, idx := bits.length / 8
        out := s.out ++ more ++ bitLog bits ++ rbyteLog (packedBytes bits) ++
          keyLog (packedBytes bits) 256 ++ [.done] } := by
  intro bits w
  obtain ⟨more, hmore, -, hscan⟩ := runs_scan hr scan [] s.out (wordEnd f :: rest) ha hw hcap
  rw [← hcmd, hstart, List.nil_append] at hscan
  refine ⟨more, hmore, ?_⟩
  have hend := step_end (s := s.scanned (streamOf scan) (s.out ++ more) (wordEnd f :: rest)) hr
    (s.scanned_phase ..) rfl
  exact (hscan.trans (.one hend)).trans (runs_sequencer rfl rfl rfl hrb hr)

/-- Settles O58: the configuration commands, then the stream from the configured state. -/
theorem plainRunEqualsDecodeFunction : Obligations.PlainRunEqualsDecodeFunction := by
  intro s conf scan f rest hfresh hcmd hallowed hconf hscan hcap c d w
  obtain ⟨hp, hacc, hrb, h0, h1, h2, hout, hr⟩ := hfresh
  rw [List.forall_mem_append] at hallowed
  rw [List.map_append, List.append_assoc] at hcmd
  obtain ⟨regs, hregs, hrunConf⟩ := runs_configure s hp hr conf s.pattern []
    (scan.map PlainCommand.word ++ wordEnd f :: rest) hallowed.1 hconf
  have hstart : s.configured s.pattern []
      (conf.map PlainCommand.word ++ (scan.map PlainCommand.word ++ wordEnd f :: rest)) = s := by
    rw [← hcmd, ← hout]; rfl
  rw [hstart, List.nil_append] at hrunConf
  obtain ⟨more, hmore, hrunStream⟩ := runs_stream
    (s := s.configured c regs (scan.map PlainCommand.word ++ wordEnd f :: rest)) hr hrb
    (State.scanned_nil hp hacc h0 h1 h2) rfl hallowed.2 hscan hcap
  have hrun := hrunConf.trans hrunStream
  rw [← Nat.add_assoc, ← Nat.add_assoc] at hrun
  refine ⟨_, hrun, rfl, ?_⟩
  have hdone : withoutReg [.done] = [.done] := rfl
  simp only [withoutReg_append, hregs, hmore, withoutReg_bitLog, withoutReg_rbyteLog,
    withoutReg_keyLog, hdone, runLog_eq, List.nil_append, State.configured_out,
    State.configured_pattern, c]

/-- Settles O59: the stream fits the accumulator up to the byte that does not. -/
theorem overflowingRunFaultsAtByte : Obligations.OverflowingRunFaultsAtByte := by
  intro s pre b rest hfresh hcmd hcap hrec w
  obtain ⟨hp, hacc, hrb, h0, h1, h2, hout, hr⟩ := hfresh
  have hword : (pre.map PlainCommand.push).map PlainCommand.word = pre.map wordPush := by
    rw [List.map_map]; rfl
  have hstream : streamOf (pre.map PlainCommand.push) = pre := by
    rw [streamOf, List.filterMap_map]; exact List.filterMap_some
  obtain ⟨more, hmore, hself, hrun⟩ := runs_scan hr (pre.map .push) [] [] (wordPush b :: rest)
    (by simp [PlainCommand.allowed]) (by simp [PlainCommand.written])
    (by rw [List.nil_append, hstream, hcap]; simp [withinCap])
  have hstart : s.scanned [] [] (pre.map wordPush ++ wordPush b :: rest) = s := by
    rw [← hcmd, ← hout]; exact State.scanned_nil hp hacc h0 h1 h2
  rw [hself (by simp)] at hmore
  rw [hword, hstart, hstream, hmore, hstream, List.length_map, List.nil_append,
    List.nil_append] at hrun
  have hfault : step (s.scanned pre (traceLog s.pattern pre) (wordPush b :: rest)) =
      .next ((s.scanned pre (traceLog s.pattern pre) rest).raise .accovf (wordPush b)) := by
    have hp' := s.scanned_phase pre (traceLog s.pattern pre) rest
    have hcheck := State.pushCheck_eq_accovf (State.ne_done_of_idle_or_scan hp')
      ((s.pushRecognized_scanned ..).trans hrec) ((State.accFull_iff _).2 hcap)
    exact (step_eq_exec_of_command (s := s.scanned pre _ (wordPush b :: rest)) hr
      (s.scanned_not_busy ..) rfl (decodeCommand_wordPush b)).trans
        (exec_push_of_check_some (hp'.imp_right .inl) hcheck)
  rw [State.raise_wordPush] at hfault
  exact hrun.trans (.one hfault)

end Sys2Proof.Machine
end
